-- ==== Sys2Proof/Word.lean ====
section
/-! DEFINITION. The bit widths the spec fixes (00_scope.md R8, 20_memory.md R58, 30_encoding.md R70) and the
two extension functions of its notation (R9). -/

namespace Sys2Proof

/-- A ring byte, a frame byte, the checksum, the command value, an operand byte (00_scope.md R8). -/
abbrev Byte := BitVec 8

/-- An operation word: one 16-bit length, no other form (30_encoding.md R70). -/
abbrev Word := BitVec 16

/-- A timer counter, compare or maximum-count value, or a sine table entry (00_scope.md R8, 20_memory.md R58). -/
abbrev Half := BitVec 16

/-- `zext_N(v)` of 00_scope.md R9. -/
abbrev zext (n : Nat) {m : Nat} (v : BitVec m) : BitVec n := v.setWidth n

/-- `sext_N(v)` of 00_scope.md R9: defined for completeness, no rule of this block sign-extends. -/
abbrev sext (n : Nat) {m : Nat} (v : BitVec m) : BitVec n := v.signExtend n

end Sys2Proof
end

