-- ==== Sys2Proof/Syntax.lean ====
section
/-! DEFINITION. The operations of 30_encoding.md R74, who issues them, what they answer, and the program notation
of R80 and R81 as terms. -/

namespace Sys2Proof

/-- The agents that issue operation words (00_scope.md R13, R14). -/
inductive Agent
  | task
  | rx
  | tick
  deriving DecidableEq, Repr

/-- The two PWM timers (10_state.md R32). -/
inductive TimerId
  | A
  | B
  deriving DecidableEq, Repr

/-- The operations, one constructor per row of the opcode map (30_encoding.md R74). The only operand of the block
is BYTE_RX's byte (R73). -/
inductive Instr
  | init
  | byteRx (d : Byte)
  | decode
  | cmdRead
  | start
  | stop
  | tick
  deriving DecidableEq, Repr

/-- Why an operation is refused (60_exceptions.md R199), in the order the reasons are checked. -/
inductive RefusalReason
  | reservedOpcode
  | reservedBits
  | wrongAgent
  | initWhileRunning
  deriving DecidableEq, Repr

/-- The responses of 30_encoding.md R79. `frame` carries the payload bytes p0..p8. -/
inductive Response
  | ack
  | noframe
  | frame (payload : List Byte)
  | empty
  | value (v : Byte)
  deriving DecidableEq, Repr

/-- One line of a program (30_encoding.md R80, R81): an operation, with the agent prefix where it is written, or a
pseudo-operation. -/
inductive Line
  | op (agent : Option Agent) (i : Instr)
  | bytes (bs : List Byte)
  | frame (payload : List Byte)
  | badFrame (m : Byte) (payload : List Byte)
  | ticks (n : Nat)
  deriving DecidableEq, Repr

end Sys2Proof
end

