-- ==== Sys2Proof/Decode.lean ====
section
/-! DEFINITION. The operation word: its fields, the total decoder, the owner of each opcode, and the encoder
(30_encoding.md R70 to R79). -/

namespace Sys2Proof

/-- `w[15:12]`, the field OP (30_encoding.md R71). -/
def opField (w : Word) : BitVec 4 := w.extractLsb' 12 4

/-- `w[11:8]`, the field RSV (30_encoding.md R71). -/
def rsvField (w : Word) : BitVec 4 := w.extractLsb' 8 4

/-- `w[7:0]`, the field IMM8 (30_encoding.md R71). -/
def immField (w : Word) : Byte := w.extractLsb' 0 8

/-- What a word spells: an operation, or nothing, with the reason (30_encoding.md R77). -/
inductive Decoded
  | op (i : Instr)
  | invalid (r : RefusalReason)
  deriving DecidableEq, Repr

/-- The format-N operation of a word with the bits that must be zero (30_encoding.md R72, R76). -/
def formatN (i : Instr) (w : Word) : Decoded :=
  if immField w = 0#8 then .op i else .invalid .reservedBits

/-- `decode(w)` of 30_encoding.md R77: the opcode first, then RSV, then IMM8 of a format-N opcode. -/
def decode (w : Word) : Decoded :=
  if (opField w).toNat < 1 ∨ 7 < (opField w).toNat then .invalid .reservedOpcode
  else if rsvField w ≠ 0#4 then .invalid .reservedBits
  else match (opField w).toNat with
    | 1 => formatN .init w
    | 2 => .op (.byteRx (immField w))
    | 3 => formatN .decode w
    | 4 => formatN .cmdRead w
    | 5 => formatN .start w
    | 6 => formatN .stop w
    | _ => formatN .tick w

/-- The operation a decoded word spells, if any. -/
def Decoded.instr? : Decoded → Option Instr
  | .op i => some i
  | .invalid _ => none

/-- The decoder on a word of the opcode table: `nbits` bits whose value is `w`, bit 0 the least significant
(30_encoding.md R71, R74). DESIGN CHOICE (assumption log 17), where the spec knows words of 16 bits alone (R70): fewer
than 16 bits are zero-extended, more than 16 are no operation, and neither is a value that `nbits` bits cannot hold. -/
def decodeTableWord (nbits w : Nat) : Option Instr :=
  if nbits ≤ 16 ∧ w < 2 ^ nbits then (decode (BitVec.ofNat 16 w)).instr? else none

/-- The agent that owns each opcode (00_scope.md R14, 30_encoding.md R74). -/
def Instr.owner : Instr → Agent
  | .init => .task
  | .byteRx _ => .rx
  | .decode => .task
  | .cmdRead => .task
  | .start => .task
  | .stop => .task
  | .tick => .tick

/-- The field OP of each operation (30_encoding.md R74). -/
def Instr.opcode : Instr → BitVec 4
  | .init => 0x1#4
  | .byteRx _ => 0x2#4
  | .decode => 0x3#4
  | .cmdRead => 0x4#4
  | .start => 0x5#4
  | .stop => 0x6#4
  | .tick => 0x7#4

/-- The field IMM8 of each operation: BYTE_RX's operand, zero in format N (30_encoding.md R72, R73). -/
def Instr.imm : Instr → Byte
  | .init => 0#8
  | .byteRx d => d
  | .decode => 0#8
  | .cmdRead => 0#8
  | .start => 0#8
  | .stop => 0#8
  | .tick => 0#8

/-- The word of an operation: OP, RSV = 0, IMM8 (30_encoding.md R71). -/
def encode (i : Instr) : Word := i.opcode ++ 0#4 ++ i.imm

/-- `match` of each row of the opcode map (30_encoding.md R74). -/
def Instr.matchBits : Instr → Word
  | .init => 0x1000#16
  | .byteRx _ => 0x2000#16
  | .decode => 0x3000#16
  | .cmdRead => 0x4000#16
  | .start => 0x5000#16
  | .stop => 0x6000#16
  | .tick => 0x7000#16

/-- `mask` of each row of the opcode map (30_encoding.md R74). -/
def Instr.maskBits : Instr → Word
  | .init => 0xFFFF#16
  | .byteRx _ => 0xFF00#16
  | .decode => 0xFFFF#16
  | .cmdRead => 0xFFFF#16
  | .start => 0xFFFF#16
  | .stop => 0xFFFF#16
  | .tick => 0xFFFF#16

/-- The 4-bit tag of a response (30_encoding.md R79). -/
def Response.tag : Response → BitVec 4
  | .ack => 0x0#4
  | .noframe => 0x1#4
  | .frame _ => 0x2#4
  | .empty => 0x3#4
  | .value _ => 0x4#4

/-- The data bytes of a response (30_encoding.md R79). -/
def Response.data : Response → List Byte
  | .ack => []
  | .noframe => []
  | .frame p => p
  | .empty => []
  | .value v => [v]

end Sys2Proof
end

