-- ==== Sys2Proof/Config.lean ====
section
/-! DEFINITION. The implementation parameters of 00_scope.md R6, as one record, and the free values. -/

namespace Sys2Proof

/-- DUTY_ROUND (00_scope.md R6, 44_modulator.md R172). -/
inductive DutyRound
  | floor
  | anyNeighbour
  deriving DecidableEq, Repr

/-- START_WHILE_STOPPING (00_scope.md R6, 42_ramp_controller.md R126). -/
inductive StartWhileStopping
  | restart
  | ignore
  deriving DecidableEq, Repr

/-- The parameters the model takes as arguments (00_scope.md R6). The state carries one such record, fixed for
the run (assumption log 1). -/
structure Config where
  /-- `N` (SINE_SAMPLES): sine table length. -/
  sineSamples : Nat
  /-- `CAP`: ring buffer capacity in bytes. -/
  cap : Nat
  /-- `ARR`: maximum count value of both PWM timers. -/
  arr : Nat
  /-- `SINE_TABLE`: the table contents. -/
  sineTable : List Nat
  /-- `RAMP_TICKS`, written `R`: ticks of one full ramp. -/
  rampTicks : Nat
  /-- `SINE_FREQ_HZ`: enters only the tick rate and the derived R (44_modulator.md R170). -/
  sineFreqHz : Rat
  /-- `SOFT_MS`: enters only the derived R (44_modulator.md R170). -/
  softMs : Rat
  startWhileStopping : StartWhileStopping
  dutyRound : DutyRound
  deriving DecidableEq, Repr

namespace Config

/-- FRAME_LEN: bytes per frame, fixed (00_scope.md R6). -/
abbrev frameLen : Nat := 10

/-- PAYLOAD_LEN: payload bytes per frame, fixed (00_scope.md R6). -/
abbrev payloadLen : Nat := 9

/-- SEED: the checksum seed (00_scope.md R6, 92_eei_decisions.md D36). -/
def seed : Byte := 0x55#8

/-- The tick rate `N × SINE_FREQ_HZ` per second (44_modulator.md R170): timing only. -/
def tickRate (c : Config) : Rat := c.sineSamples * c.sineFreqHz

/-- The ramp length derived from the tunables, `floor(N × SINE_FREQ_HZ × SOFT_MS / 1000)` (44_modulator.md
R170). The machine takes `rampTicks` directly, as R170 says (assumption log 14). -/
def derivedRampTicks (c : Config) : Nat := (Rat.floor (c.tickRate * c.softMs / 1000)).toNat

/-- FREE VALUE. The k-th free draw of the duty's rounding under DUTY_ROUND = ANY_NEIGHBOUR (44_modulator.md
R172): true draws the ceiling, false the floor. No body, so nothing is known of it (assumption log 9). -/
opaque roundUp : Nat → Bool

/-- FREE VALUE. What a sine table entry beyond the table would read as. No run reaches such an index (20_memory.md
R57) and the spec states nothing of it (assumption log 11). -/
opaque beyondTable : Nat → Half

/-- The reference table of 44_modulator.md R171 for N = 100 and ARR = 1000 (95_test_vectors.md section 0): an
example table, not the hardware's; no meaning of an instruction mentions it (assumption log 2). -/
def exampleTable : List Nat :=
    [500, 531, 563, 594, 624, 655, 684, 713, 741, 768]
    ++ [794, 819, 842, 864, 885, 905, 922, 938, 952, 965]
    ++ [976, 984, 991, 996, 999, 1000, 999, 996, 991, 984]
    ++ [976, 965, 952, 938, 922, 905, 885, 864, 842, 819]
    ++ [794, 768, 741, 713, 684, 655, 624, 594, 563, 531]
    ++ [500, 469, 437, 406, 376, 345, 316, 287, 259, 232]
    ++ [206, 181, 158, 136, 115, 95, 78, 62, 48, 35]
    ++ [24, 16, 9, 4, 1, 0, 1, 4, 9, 16]
    ++ [24, 35, 48, 62, 78, 95, 115, 136, 158, 181]
    ++ [206, 232, 259, 287, 316, 345, 376, 406, 437, 469]

/-- The configuration of `State.reset`. DESIGN CHOICE (assumption log 2): N, CAP, DUTY_ROUND and
START_WHILE_STOPPING are the defaults of 00_scope.md R6; the spec gives no value of the others, and these are its
own illustrations (95_test_vectors.md section 0). -/
def default : Config where
  sineSamples := 100
  cap := 128
  arr := 1000
  sineTable := exampleTable
  rampTicks := 10000
  sineFreqHz := 50
  softMs := 2000
  startWhileStopping := .restart
  dutyRound := .floor

end Config

end Sys2Proof
end

