-- ==== Sys2Proof/WellFormed.lean ====
section
/-! DEFINITION. The checks on terms: configurations (00_scope.md R6, R7), instructions, responses, program lines. -/

namespace Sys2Proof

/-- The constraints of 00_scope.md R6 on a configuration (92_eei_decisions.md D36). A configuration that breaks one
has no run (R7). -/
def Config.ok (c : Config) : Bool :=
  decide (1 ≤ c.sineSamples)
    && decide (11 ≤ c.cap)
    && decide (c.arr ≤ 0xFFFF)
    && decide (c.sineTable.length = c.sineSamples)
    && c.sineTable.all (fun e => decide (e ≤ c.arr))
    && decide (1 ≤ c.rampTicks)
    && decide (0 < c.sineFreqHz.num)
    && decide (0 < c.softMs.num)

/-- Every term of `Instr` is well formed: no operation but BYTE_RX has an operand, and BYTE_RX's operand is one
unsigned byte by its type (30_encoding.md R72, R73). -/
def Instr.wf : Instr → Bool
  | .init => true
  | .byteRx _ => true
  | .decode => true
  | .cmdRead => true
  | .start => true
  | .stop => true
  | .tick => true

/-- A FRAME response carries nine bytes (30_encoding.md R79). -/
def Response.wf : Response → Bool
  | .ack => true
  | .noframe => true
  | .frame p => decide (p.length = Config.payloadLen)
  | .empty => true
  | .value _ => true

/-- BYTES has at least one byte, FRAME and BADFRAME have nine payload bytes, BADFRAME's mask is not 0
(30_encoding.md R81). -/
def Line.wf : Line → Bool
  | .op _ i => i.wf
  | .bytes bs => decide (bs ≠ [])
  | .frame p => decide (p.length = Config.payloadLen)
  | .badFrame m p => decide (m ≠ 0#8) && decide (p.length = Config.payloadLen)
  | .ticks _ => true

end Sys2Proof
end

