-- ==== Sys2Proof/Machine/State.lean ====
section
/-! DEFINITION. The state of the block (10_state.md R20), the stops of a step, and the states after reset (R36). -/

namespace Sys2Proof.Machine

open Sys2Proof

/-- The RampController state (10_state.md R26). -/
inductive Phase
  | idle
  | starting
  | running
  | stopping
  deriving DecidableEq, Repr

/-- The logical state of the two timer outputs (10_state.md R31). -/
inductive BridgeState
  | stopped
  | running
  deriving DecidableEq, Repr

/-- The fields one PWM timer contributes (10_state.md R32). -/
structure Timer where
  cnt : Half
  ccrPre : Half
  ccrAct : Half
  arr : Half
  cen : Bool
  cce : Bool
  ccne : Bool
  moe : Bool
  deriving DecidableEq, Repr

/-- The ring buffer's contents as cells (index, byte), indexes rising, no cell equal to what an unlisted slot reads
as (assumption log 4). -/
abbrev Memory := List Host.Cell

/-- What a ring slot that no cell lists reads as. DESIGN CHOICE: the spec leaves the reset contents unspecified
(10_state.md R36, assumption log 4). -/
def Memory.unlisted : Byte := 0#8

/-- One step some agent takes (00_scope.md R13, R15): an agent issues an operation word, a timer agent takes an
update event (43_bridge_driver.md R149) or counts to the drawn value `c` (R150), or the environment halts the block
(60_exceptions.md R202). -/
inductive Event
  | op (agent : Agent) (word : Word)
  | update (t : TimerId)
  | count (t : TimerId) (c : Half)
  | halt
  deriving DecidableEq, Repr

/-- Why a step ends in a fault. -/
inductive Fault
  /-- Raised by `step` in a state whose `halted` bit is set (60_exceptions.md R202, 10_state.md R35): no agent takes
  a step. Safe: the spec gives no step there. -/
  | fatalHardwareFault
  deriving DecidableEq, Repr

/-- Why a step is refused. -/
inductive Refusal
  /-- Raised by an arm of `exec` whose instruction has no meaning yet; no arm raises it in this model. Safe. -/
  | notModelled (mnemonic : String)
  /-- Raised by `step` when the configuration breaks a constraint of 00_scope.md R6: R7 gives it no run. Safe. -/
  | invalidConfiguration
  /-- Raised by `step` in a state whose `refused` bit is set (60_exceptions.md R199, 10_state.md R35): no agent takes
  a step. Safe: the spec gives no step there. -/
  | runRefused
  /-- Raised by a timer agent's step that is not enabled (`cen = 0`) or that counts beyond ARR (43_bridge_driver.md
  R149, R150): no such step exists. Safe. -/
  | timerStepNotEnabled (t : TimerId)
  deriving DecidableEq, Repr

/-- The state. The first group is the spec's (10_state.md R20, in its order); the second is the model's own
(assumption logs 1, 5, 8, 9). -/
structure State where
  rbBuf : Memory
  rbHead : Nat
  rbTail : Nat
  cmdFull : Bool
  cmdValue : Byte
  phase : Phase
  amp : Nat
  tickIndex : Nat
  sineTable : List Half
  bridgeState : BridgeState
  tmrA : Timer
  tmrB : Timer
  refused : Bool
  halted : Bool
  /-- The parameters of 00_scope.md R6; no step writes them. -/
  cfg : Config
  /-- The steps still to come, in the order of the run (10_state.md R21, 00_scope.md R15). -/
  agenda : List Event
  /-- The responses given so far, each with the agent it went to, newest first (30_encoding.md R79). -/
  responses : List (Agent × Response)
  /-- The reason of the refusal, when `refused` is set (60_exceptions.md R199). -/
  refusalReason : Option RefusalReason
  /-- The number of the next free draw (44_modulator.md R172, ANY_NEIGHBOUR). -/
  drawIndex : Nat
  deriving DecidableEq, Repr

/-- SINE_TABLE as the 16-bit entries INIT stores (44_modulator.md R171, 10_state.md R20). -/
def tableEntries (c : Config) : List Half := c.sineTable.map (BitVec.ofNat 16)

/-- The values 10_state.md R36 leaves unspecified: a free draw of the launch. -/
structure Launch where
  rbBuf : Memory
  cmdValue : Byte
  cntA : Half
  ccrPreA : Half
  ccrActA : Half
  cntB : Half
  ccrPreB : Half
  ccrActB : Half
  deriving DecidableEq, Repr

/-- A timer as board bring-up leaves it: ARR loaded, counter stopped, outputs disabled (70_reset_and_hazards.md
R227). -/
def Timer.launch (c : Config) (cnt ccrPre ccrAct : Half) : Timer where
  cnt := cnt
  ccrPre := ccrPre
  ccrAct := ccrAct
  arr := BitVec.ofNat 16 c.arr
  cen := false
  cce := false
  ccne := false
  moe := false

/-- The reset state of configuration `c` with the unspecified values `d` (10_state.md R36, 70_reset_and_hazards.md
R225, R227): no operation in progress, none issued yet. -/
def State.launch (c : Config) (d : Launch) : State where
  rbBuf := d.rbBuf
  rbHead := 0
  rbTail := 0
  cmdFull := false
  cmdValue := d.cmdValue
  phase := .idle
  amp := 0
  tickIndex := 0
  sineTable := tableEntries c
  bridgeState := .stopped
  tmrA := Timer.launch c d.cntA d.ccrPreA d.ccrActA
  tmrB := Timer.launch c d.cntB d.ccrPreB d.ccrActB
  refused := false
  halted := false
  cfg := c
  agenda := []
  responses := []
  refusalReason := none
  drawIndex := 0

/-- The unspecified values of `State.reset`. DESIGN CHOICE: all zero, nothing listed (assumption logs 3, 4). -/
def Launch.zero : Launch where
  rbBuf := []
  cmdValue := 0#8
  cntA := 0#16
  ccrPreA := 0#16
  ccrActA := 0#16
  cntB := 0#16
  ccrPreB := 0#16
  ccrActB := 0#16

/-- One reset state of 10_state.md R36: that of `Config.default` (assumption log 2) with `Launch.zero`. -/
def State.reset : State := State.launch Config.default Launch.zero

end Sys2Proof.Machine
end

