-- ==== Sys2Proof/Machine/Ops.lean ====
section
/-! DEFINITION. The named operations over the state: the ring's cells, the timers, responding, refusing, and the
agenda. -/

namespace Sys2Proof.Machine

open Sys2Proof

/-! ### The ring's cells -/

/-- The byte at index `i`. -/
def Memory.read : Memory → Nat → Byte
  | [], _ => Memory.unlisted
  | (j, b) :: m, i => if j = i then b else Memory.read m i

/-- The cells without the one at index `i`. -/
def Memory.erase : Memory → Nat → Memory
  | [], _ => []
  | (j, b) :: m, i => if j = i then m else (j, b) :: Memory.erase m i

/-- The cells with `v` listed at index `i`, in rising order. -/
def Memory.insert : Memory → Nat → Byte → Memory
  | [], i, v => [(i, v)]
  | (j, b) :: m, i, v =>
    if i < j then (i, v) :: (j, b) :: m
    else if i = j then (i, v) :: m
    else (j, b) :: Memory.insert m i v

/-- Set the byte at index `i` to `v`, keeping the canonical form. -/
def Memory.write (m : Memory) (i : Nat) (v : Byte) : Memory :=
  if v = Memory.unlisted then m.erase i else m.insert i v

/-- All cells lie at `lo` or above, below `cap`, in rising order, and none equals what an unlisted slot reads as. -/
def Memory.wfFrom (cap : Nat) : Nat → Memory → Bool
  | _, [] => true
  | lo, (j, b) :: m =>
    decide (lo ≤ j) && decide (j < cap) && decide (b ≠ Memory.unlisted) && Memory.wfFrom cap (j + 1) m

/-- The canonical form of a ring of `cap` bytes (assumption log 4). -/
def Memory.wf (cap : Nat) (m : Memory) : Bool := m.wfFrom cap 0

/-- `MemRead(i, 1)`: the index is taken modulo CAP (20_memory.md R51). -/
def memRead (s : State) (i : Nat) : Byte := s.rbBuf.read (i % s.cfg.cap)

/-- `MemWrite(i, 1, v)`: the index is taken modulo CAP (20_memory.md R51). -/
def memWrite (s : State) (i : Nat) (v : Byte) : State :=
  { s with rbBuf := s.rbBuf.write (i % s.cfg.cap) v }

/-- The number of unread bytes, `(rb_head − rb_tail) mod CAP` (40_frame_decoder.md R90). -/
def avail (s : State) : Nat := (((s.rbHead : Int) - (s.rbTail : Int)) % (s.cfg.cap : Int)).toNat

/-! ### The timers -/

/-- `tmr[t]` (10_state.md R32). -/
def State.tmr (s : State) : TimerId → Timer
  | .A => s.tmrA
  | .B => s.tmrB

/-- Write some fields of `tmr[t]`. -/
def mapTimer (t : TimerId) (f : Timer → Timer) (s : State) : State :=
  match t with
  | .A => { s with tmrA := f s.tmrA }
  | .B => { s with tmrB := f s.tmrB }

/-- `for t in [A, B]`: the body for timer A, then for timer B (43_bridge_driver.md R152). -/
def forBoth (p : TimerId → State → State) (s : State) : State := p .B (p .A s)

/-! ### Ending an operation -/

/-- `respond(r)`: the operation ends and its issuer gets `r` (00_scope.md R10). An operation that runs was issued by
the owner of its opcode (R14), so `g` is that owner. -/
def respond (g : Agent) (r : Response) (s : State) : State :=
  { s with responses := (g, r) :: s.responses }

/-- `refuse(reason)`: nothing of the block is written and no response is given, the `refused` bit is set
(60_exceptions.md R199, 10_state.md R35). The one shared way every refused step goes (assumption log 6); the block has
no exception to take and none to return from (60_exceptions.md R195, R207, R208). -/
def refuse (r : RefusalReason) (s : State) : State :=
  { s with refused := true, refusalReason := some r }

/-- The environment's halt step (60_exceptions.md R202): every timer field stays as it was. -/
def haltBlock (s : State) : State := { s with halted := true }

/-! ### The agenda -/

/-- The state once the first entry of the agenda is taken. -/
def popAgenda (s : State) : State := { s with agenda := s.agenda.tail }

/-- The agent `placeWord` lets issue a word: the owner of its opcode; the task where the word spells no operation
(it is refused whoever issues it, 60_exceptions.md R199). -/
def wordIssuer (w : Word) : Agent :=
  match decode w with
  | .op i => i.owner
  | .invalid _ => .task

/-- The operation word `w` issued next, by the owner of its opcode, before everything else still to come. -/
def placeWord (w : Word) (s : State) : State :=
  { s with agenda := .op (wordIssuer w) w :: s.agenda }

end Sys2Proof.Machine
end

