-- ==== Sys2Proof/Machine/Flags.lean ====
section
/-! DEFINITION. The flags of 10_state.md R37: their codes, the gate enables read from them (R34), and the command
slot's full flag (41_command_channel.md R110, R112). -/

namespace Sys2Proof.Machine

open Sys2Proof

/-- The 2-bit encoding of `phase` (10_state.md R26). -/
def Phase.code : Phase → BitVec 2
  | .idle => 0#2
  | .starting => 1#2
  | .running => 2#2
  | .stopping => 3#2

/-- The 1-bit encoding of `bridge_state` (10_state.md R31). -/
def BridgeState.code : BridgeState → BitVec 1
  | .stopped => 0#1
  | .running => 1#1

/-- `out_main_en(t) = moe AND cce` (10_state.md R34). -/
def outMainEn (s : State) (t : TimerId) : Bool := (s.tmr t).moe && (s.tmr t).cce

/-- `out_comp_en(t) = moe AND ccne` (10_state.md R34). -/
def outCompEn (s : State) (t : TimerId) : Bool := (s.tmr t).moe && (s.tmr t).ccne

/-- `CmdPublish(v)` (41_command_channel.md R110): overwrite the slot and mark it full. -/
def cmdPublish (v : Byte) (s : State) : State := { s with cmdValue := v, cmdFull := true }

/-- The reader's side of the slot: mark it empty, `cmd_value` stays (41_command_channel.md R112). -/
def cmdTake (s : State) : State := { s with cmdFull := false }

end Sys2Proof.Machine
end

