-- ==== Sys2Proof/Machine/Command.lean ====
section
/-! DEFINITION. The command channel's operation CMD_READ (41_command_channel.md R112). -/

namespace Sys2Proof.Machine

open Sys2Proof

/-- CMD_READ (41_command_channel.md R112). -/
def execCmdRead (s : State) : Host.Outcome State Fault Refusal :=
  if s.cmdFull then .next (respond .task (.value s.cmdValue) (cmdTake s))
  else .next (respond .task .empty s)

end Sys2Proof.Machine
end

