-- ==== Sys2Proof/Machine/Operands.lean ====
section
/-! DEFINITION. The values the operations compute from: unread bytes and the checksum (40_frame_decoder.md R90, R93),
the sine table entry and the duty (44_modulator.md R172). -/

namespace Sys2Proof.Machine

open Sys2Proof

/-- Unread byte `k`, the byte at ring index `rb_tail + k` modulo CAP; byte 0 is the oldest (40_frame_decoder.md R90,
20_memory.md R55). -/
def unreadByte (s : State) (k : Nat) : Byte := memRead s (s.rbTail + k)

/-- The `n` bytes from ring index `rb_tail` on, oldest first. -/
def unreadBytes (s : State) (n : Nat) : List Byte := (List.range n).map (unreadByte s)

/-- `chk(p0..p8) = SEED XOR p0 XOR … XOR p8` (40_frame_decoder.md R93). -/
def chk (p : List Byte) : Byte := p.foldl (fun x b => x ^^^ b) Config.seed

/-- The nine payload bytes of the window at `rb_tail` (20_memory.md R55). -/
def windowPayload (s : State) : List Byte := unreadBytes s Config.payloadLen

/-- Whether the ten bytes of the window at `rb_tail` form a valid frame (40_frame_decoder.md R93). -/
def windowValid (s : State) : Bool :=
  decide (chk (windowPayload s) = unreadByte s Config.payloadLen)

/-- `sine_table[tick_index]` (20_memory.md R52). An index beyond the table, which no run reaches, reads a free value
(assumption log 11). -/
def sineEntry (s : State) : Half := s.sineTable[s.tickIndex]?.getD (Config.beyondTable s.tickIndex)

/-- `floor(T × a / R)` (44_modulator.md R172). -/
def dutyFloor (T a R : Nat) : Nat := T * a / R

/-- `ceil(T × a / R)` (44_modulator.md R172). -/
def dutyCeil (T a R : Nat) : Nat := (T * a + (R - 1)) / R

/-- `duty(T, a)`: the floor, or with ANY_NEIGHBOUR the free draw number `k` of floor and ceiling (44_modulator.md
R172). -/
def duty (c : Config) (k : Nat) (T a : Nat) : Nat :=
  match c.dutyRound with
  | .floor => dutyFloor T a c.rampTicks
  | .anyNeighbour => if Config.roundUp k then dutyCeil T a c.rampTicks else dutyFloor T a c.rampTicks

/-- The duty of this tick: the entry at `tick_index` times the amplitude (44_modulator.md R176). -/
def currentDuty (s : State) : Nat := duty s.cfg s.drawIndex (sineEntry s).toNat s.amp

/-- The free draw of this duty is used up: the next one is another (assumption log 9). -/
def nextDraw (s : State) : State :=
  match s.cfg.dutyRound with
  | .floor => s
  | .anyNeighbour => { s with drawIndex := s.drawIndex + 1 }

/-- The amplitude `amp / R` (00_scope.md R12, 10_state.md R27). -/
def amplitude (s : State) : Rat := (s.amp : Rat) / (s.cfg.rampTicks : Rat)

/-- The commanded amplitude `cmd_value / 255` (00_scope.md R12, 41_command_channel.md R111). -/
def commandedAmplitude (s : State) : Rat := (s.cmdValue.toNat : Rat) / 255

end Sys2Proof.Machine
end

