-- ==== Sys2Proof/Machine/Frame.lean ====
section
/-! DEFINITION. The frame decoder: BYTE_RX and DECODE (40_frame_decoder.md R91, R94). -/

namespace Sys2Proof.Machine

open Sys2Proof

/-- BYTE_RX d (40_frame_decoder.md R91). -/
def execByteRx (d : Byte) (s : State) : Host.Outcome State Fault Refusal :=
  let s1 := memWrite s s.rbHead d
  .next (respond .rx .ack { s1 with rbHead := (s.rbHead + 1) % s.cfg.cap })

/-- Consume `n` bytes: `rb_tail <- (rb_tail + n) mod CAP` (40_frame_decoder.md R94). -/
def consume (n : Nat) (s : State) : State := { s with rbTail := (s.rbTail + n) % s.cfg.cap }

/-- DECODE (40_frame_decoder.md R94). The command byte is the payload's byte 0. -/
def execDecode (s : State) : Host.Outcome State Fault Refusal :=
  if avail s < Config.frameLen then .next (respond .task .noframe s)
  else if windowValid s then
    .next (respond .task (.frame (windowPayload s))
      (cmdPublish (unreadByte s 0) (consume Config.frameLen s)))
  else .next (respond .task .noframe (consume 1 s))

end Sys2Proof.Machine
end

