-- ==== Sys2Proof/Machine/Bridge.lean ====
section
/-! DEFINITION. The bridge driver's timer primitives and register sequences, and the timer agents' own steps
(43_bridge_driver.md R145 to R153). -/

namespace Sys2Proof.Machine

open Sys2Proof

/-! ### Timer primitives (43_bridge_driver.md R145) -/

/-- `ForceLatch(t)` (43_bridge_driver.md R146). -/
def forceLatch (t : TimerId) : State → State := mapTimer t fun x => { x with ccrAct := x.ccrPre }

/-- `ResetCounter(t)`. -/
def resetCounter (t : TimerId) : State → State := mapTimer t fun x => { x with cnt := 0#16 }

/-- `EnableOutputs(t)`. -/
def enableOutputs (t : TimerId) : State → State := mapTimer t fun x => { x with cce := true, ccne := true }

/-- `DisableOutputs(t)`. -/
def disableOutputs (t : TimerId) : State → State := mapTimer t fun x => { x with cce := false, ccne := false }

/-- `SetMOE(t, b)`. -/
def setMoe (b : Bool) (t : TimerId) : State → State := mapTimer t fun x => { x with moe := b }

/-- `StartCounter(t)`. -/
def startCounter (t : TimerId) : State → State := mapTimer t fun x => { x with cen := true }

/-- `StopCounter(t)`. -/
def stopCounter (t : TimerId) : State → State := mapTimer t fun x => { x with cen := false }

/-- `SetCompare(t, v)`: a 16-bit write of the preload side. -/
def setCompare (v : Half) (t : TimerId) : State → State := mapTimer t fun x => { x with ccrPre := v }

/-- `SetCompareBoth(v)` (43_bridge_driver.md R147). Its callers guarantee `v ≤ ARR` (44_modulator.md R177), so the
16 bits hold it. -/
def setCompareBoth (v : Nat) : State → State := forBoth (setCompare (BitVec.ofNat 16 v))

/-! ### The register sequences -/

/-- The numbered steps (0) to (5) of BridgeStartSeq, in order (43_bridge_driver.md R148). -/
def bridgeStartSteps : List (State → State) :=
  [forBoth (setCompare 0#16), forBoth forceLatch, forBoth resetCounter, forBoth enableOutputs,
    forBoth (setMoe true), forBoth startCounter]

/-- The numbered steps (1) to (4) of BridgeStopSeq, in order (43_bridge_driver.md R151). -/
def bridgeStopSteps : List (State → State) :=
  [forBoth (setMoe false), forBoth stopCounter, forBoth disableOutputs, forBoth resetCounter]

/-- Each step completes before the next begins (43_bridge_driver.md R152). -/
def runSteps (fs : List (State → State)) (s : State) : State := fs.foldl (fun s f => f s) s

/-- `BridgeStartSeq()` (43_bridge_driver.md R148). -/
def bridgeStartSeq (s : State) : State :=
  { runSteps bridgeStartSteps s with bridgeState := .running }

/-- `BridgeStopSeq()` (43_bridge_driver.md R151). -/
def bridgeStopSeq (s : State) : State :=
  { runSteps bridgeStopSteps s with bridgeState := .stopped }

/-! ### The timer agents' steps -/

/-- The update event of timer `t`, enabled only when `cen = 1` (43_bridge_driver.md R149; that the event transfers
the preload is PRESUMED there, assumption log 15). -/
def timerUpdate (t : TimerId) (s : State) : Host.Outcome State Fault Refusal :=
  if (s.tmr t).cen then .next (mapTimer t (fun x => { x with ccrAct := x.ccrPre }) s)
  else .refused (.timerStepNotEnabled t)

/-- Counting of timer `t` to the drawn value `c` in [0, ARR], enabled only when `cen = 1` (43_bridge_driver.md
R150). -/
def timerCount (t : TimerId) (c : Half) (s : State) : Host.Outcome State Fault Refusal :=
  if (s.tmr t).cen ∧ c.toNat ≤ s.cfg.arr then .next (mapTimer t (fun x => { x with cnt := c }) s)
  else .refused (.timerStepNotEnabled t)

end Sys2Proof.Machine
end

