-- ==== Sys2Proof/Machine/Ramp.lean ====
section
/-! DEFINITION. The ramp controller's macros (42_ramp_controller.md R126 to R128). -/

namespace Sys2Proof.Machine

open Sys2Proof

/-- The source's ramp step, in counts of `1/RAMP_TICKS` (10_state.md R28): derived from `phase`, not stored; unused
when Idle. -/
def rampStep : Phase → Int
  | .idle => 0
  | .starting => 1
  | .running => 1
  | .stopping => -1

/-- `RampStart()` (42_ramp_controller.md R126). -/
def rampStart (s : State) : State :=
  match s.phase with
  | .starting => s
  | .running => s
  | .stopping =>
    match s.cfg.startWhileStopping with
    | .ignore => s
    | .restart => { s with phase := .starting, amp := 0 }
  | .idle => { s with phase := .starting, amp := 0 }

/-- `RampStop()` (42_ramp_controller.md R127). -/
def rampStop (s : State) : State :=
  match s.phase with
  | .starting => { s with phase := .stopping }
  | .running => { s with phase := .stopping }
  | .idle => s
  | .stopping => s

/-- `Advance()` (42_ramp_controller.md R128): the state after it, and whether the phase became Idle in this step. -/
def advance (s : State) : State × Bool :=
  if s.phase = .idle then (s, false)
  else
    let a : Int := (s.amp : Int) + rampStep s.phase
    if (s.cfg.rampTicks : Int) ≤ a then ({ s with amp := s.cfg.rampTicks, phase := .running }, false)
    else if a ≤ 0 then (bridgeStopSeq { s with amp := 0, phase := .idle }, true)
    else ({ s with amp := a.toNat }, false)

end Sys2Proof.Machine
end

