-- ==== Sys2Proof/Machine/Modulator.lean ====
section
/-! DEFINITION. The modulator: INIT, START, STOP, TICK (44_modulator.md R173 to R176). -/

namespace Sys2Proof.Machine

open Sys2Proof

/-- What INIT writes: the table and the cleared counters and flags (44_modulator.md R173). -/
def initState (s : State) : State :=
  { s with
    sineTable := tableEntries s.cfg
    phase := .idle
    amp := 0
    tickIndex := 0
    cmdFull := false
    rbHead := 0
    rbTail := 0 }

/-- INIT (44_modulator.md R173): refused while the bridge runs (60_exceptions.md R199). -/
def execInit (s : State) : Host.Outcome State Fault Refusal :=
  match s.bridgeState with
  | .running => .next (refuse .initWhileRunning s)
  | .stopped => .next (respond .task .ack (initState s))

/-- START (44_modulator.md R174). -/
def execStart (s : State) : Host.Outcome State Fault Refusal :=
  match s.phase with
  | .idle => .next (respond .task .ack (rampStart (bridgeStartSeq s)))
  | .stopping => .next (respond .task .ack (rampStart s))
  | .starting => .next (respond .task .ack s)
  | .running => .next (respond .task .ack s)

/-- STOP (44_modulator.md R175). -/
def execStop (s : State) : Host.Outcome State Fault Refusal :=
  .next (respond .task .ack (rampStop s))

/-- The duty write of a tick: both compare preloads, then `tick_index` (44_modulator.md R176). -/
def writeDuty (s : State) : State :=
  let s1 := setCompareBoth (currentDuty s) (nextDraw s)
  { s1 with tickIndex := (s.tickIndex + 1) % s.cfg.sineSamples }

/-- TICK (44_modulator.md R176). -/
def execTick (s : State) : Host.Outcome State Fault Refusal :=
  if s.phase = .idle then .next (respond .tick .ack s)
  else
    match advance s with
    | (s1, true) => .next (respond .tick .ack s1)
    | (s1, false) => .next (respond .tick .ack (writeDuty s1))

end Sys2Proof.Machine
end

