-- ==== Sys2Proof/Machine/Dispatch.lean ====
section
/-! DEFINITION. One arm per operation of 30_encoding.md R74. -/

namespace Sys2Proof.Machine

open Sys2Proof

def exec (i : Instr) (s : State) : Host.Outcome State Fault Refusal :=
  match i with
  | .init => Sys2Proof.Machine.execInit s
  | .byteRx d => Sys2Proof.Machine.execByteRx d s
  | .decode => Sys2Proof.Machine.execDecode s
  | .cmdRead => Sys2Proof.Machine.execCmdRead s
  | .start => Sys2Proof.Machine.execStart s
  | .stop => Sys2Proof.Machine.execStop s
  | .tick => Sys2Proof.Machine.execTick s

end Sys2Proof.Machine
end

