-- ==== Sys2Proof/Machine/Issue.lean ====
section
/-! DEFINITION. Taking one entry of the agenda: an issued word is decoded, its issuer checked, its operation run; a
timer agent or the environment takes its own step. -/

namespace Sys2Proof.Machine

open Sys2Proof

/-- Agent `g` issues word `w`: the refusal reasons in the order of 60_exceptions.md R199 (the fourth, INIT while the
bridge runs, is INIT's own), else the operation. -/
def issue (g : Agent) (w : Word) (s : State) : Host.Outcome State Fault Refusal :=
  match decode w with
  | .invalid r => .next (refuse r s)
  | .op i => if i.owner = g then exec i s else .next (refuse .wrongAgent s)

/-- The step of one agent (00_scope.md R13, R15). -/
def takeEvent (e : Event) (s : State) : Host.Outcome State Fault Refusal :=
  match e with
  | .op g w => issue g w s
  | .update t => timerUpdate t s
  | .count t c => timerCount t c s
  | .halt => .next (haltBlock s)

/-- The next step of the run: the first entry of the agenda is taken. With none, no agent steps and every value
holds (44_modulator.md R178, assumption log 5). -/
def takeNext (s : State) : Host.Outcome State Fault Refusal :=
  match s.agenda with
  | [] => .next s
  | e :: _ => takeEvent e (popAgenda s)

end Sys2Proof.Machine
end

