-- ==== Sys2Proof/Machine/Step.lean ====
section
/-! DEFINITION. One step of the block, and where the next operation word is placed. -/

namespace Sys2Proof.Machine

open Sys2Proof

/-- One step. A configuration that breaks 00_scope.md R6 has no run (R7); a halted or refused block takes no step
(10_state.md R35); else the next agent's step is taken. -/
def step (s : State) : Host.Outcome State Fault Refusal :=
  if s.cfg.ok = false then .refused .invalidConfiguration
  else if s.halted then .fault .fatalHardwareFault
  else if s.refused then .refused .runRefused
  else takeNext s

/-- `s` with the operation word of value `w` issued next, by the owner of its opcode (assumption log 5).
DESIGN CHOICE (assumption log 17), where the spec knows words of 16 bits alone (30_encoding.md R70): of `w` the lowest
`nbits` bits are taken, zero-extended below 16 and cut to the lowest 16 above. -/
def State.withFetchWord (s : State) (nbits w : Nat) : State :=
  placeWord (BitVec.ofNat 16 (w % 2 ^ nbits)) s

end Sys2Proof.Machine
end

