-- ==== Sys2Proof/Machine/Program.lean ====
section
/-! DEFINITION. The program notation: pseudo-operations, the agenda a program stands for, and the reading of a line's
text (30_encoding.md R80, R81). -/

namespace Sys2Proof.Machine

open Sys2Proof

/-! ### Expansion -/

/-- The lines of `BYTES b0, …, bk`. -/
def expandBytes (bs : List Byte) : List (Agent × Instr) := bs.map fun b => (.rx, .byteRx b)

/-- The operations a line stands for, each with the agent that issues it: the written one, else the opcode's owner
(30_encoding.md R80, R81). -/
def expandLine : Line → List (Agent × Instr)
  | .op g i => [(g.getD i.owner, i)]
  | .bytes bs => expandBytes bs
  | .frame p => expandBytes (p ++ [chk p])
  | .badFrame m p => expandBytes (p ++ [chk p ^^^ m])
  | .ticks n => List.replicate n (.tick, .tick)

/-- The agenda entry of an issued operation. -/
def issueEvent (x : Agent × Instr) : Event := .op x.1 (encode x.2)

/-- The agenda of a program: its lines are issued in the order written (30_encoding.md R80). -/
def programAgenda (p : List Line) : List Event := (p.flatMap expandLine).map issueEvent

/-! ### Reading a line's text (assumption log 16) -/

/-- The text before the comment: from `;` on a line is a comment. -/
def stripComment (cs : List Char) : List Char := cs.takeWhile (fun c => c != ';')

/-- The words of a line, separated by blanks and commas; `cur` holds the word being read, last character first. -/
def tokensFrom : List Char → List Char → List (List Char)
  | cur, [] => if cur = [] then [] else [cur.reverse]
  | cur, c :: cs =>
    if c = ' ' ∨ c = '\t' ∨ c = ',' then
      if cur = [] then tokensFrom [] cs else cur.reverse :: tokensFrom [] cs
    else tokensFrom (c :: cur) cs

/-- The value of one digit in `base`. -/
def digitValue (base : Nat) (c : Char) : Option Nat :=
  let n := c.toNat
  let v := if 48 ≤ n ∧ n ≤ 57 then some (n - 48)
    else if 65 ≤ n ∧ n ≤ 70 then some (n - 55)
    else if 97 ≤ n ∧ n ≤ 102 then some (n - 87)
    else none
  match v with
  | some d => if d < base then some d else none
  | none => none

/-- The value of digits in `base`, read on from `acc`. -/
def digitsValue (base : Nat) : Nat → List Char → Option Nat
  | acc, [] => some acc
  | acc, c :: cs =>
    match digitValue base c with
    | some d => digitsValue base (acc * base + d) cs
    | none => none

/-- A decimal number, or a hexadecimal one with `0x` before it. -/
def numberValue : List Char → Option Nat
  | [] => none
  | '0' :: 'x' :: c :: cs => digitsValue 16 0 (c :: cs)
  | cs => digitsValue 10 0 cs

/-- An operand, a number in 0..255. -/
def byteValue (cs : List Char) : Option Byte :=
  match numberValue cs with
  | some n => if n ≤ 255 then some (BitVec.ofNat 8 n) else none
  | none => none

/-- An agent's name with the colon after it. -/
def agentOf (cs : List Char) : Option Agent :=
  if cs = ['t', 'a', 's', 'k', ':'] then some .task
  else if cs = ['r', 'x', ':'] then some .rx
  else if cs = ['t', 'i', 'c', 'k', ':'] then some .tick
  else none

/-- The format-N mnemonics (30_encoding.md R74). -/
def formatNOf (cs : List Char) : Option Instr :=
  if cs = ['I', 'N', 'I', 'T'] then some .init
  else if cs = ['D', 'E', 'C', 'O', 'D', 'E'] then some .decode
  else if cs = ['C', 'M', 'D', '_', 'R', 'E', 'A', 'D'] then some .cmdRead
  else if cs = ['S', 'T', 'A', 'R', 'T'] then some .start
  else if cs = ['S', 'T', 'O', 'P'] then some .stop
  else if cs = ['T', 'I', 'C', 'K'] then some .tick
  else none

/-- An operation without its agent prefix: a mnemonic and, for BYTE_RX alone, one operand. -/
def readOperation : List (List Char) → Option Instr
  | [m] => formatNOf m
  | [m, d] => if m = ['B', 'Y', 'T', 'E', '_', 'R', 'X'] then (byteValue d).map .byteRx else none
  | _ => none

/-- A pseudo-operation (30_encoding.md R81). -/
def readPseudo : List (List Char) → Option Line
  | [] => none
  | m :: args =>
    if m = ['T', 'I', 'C', 'K', 'S'] then
      match args with
      | [n] => (numberValue n).map .ticks
      | _ => none
    else
      match args.mapM byteValue with
      | none => none
      | some bs =>
        if m = ['B', 'Y', 'T', 'E', 'S'] then some (.bytes bs)
        else if m = ['F', 'R', 'A', 'M', 'E'] then some (.frame bs)
        else if m = ['B', 'A', 'D', 'F', 'R', 'A', 'M', 'E'] then
          match bs with
          | [] => none
          | b :: p => some (.badFrame b p)
        else none

/-- What a line's text says: an ill-formed line, an empty or comment line, or one line of a program. -/
inductive LineText
  | bad
  | blank
  | line (l : Line)
  deriving DecidableEq, Repr

/-- A read line, accepted when it is well formed. -/
def acceptLine (l : Option Line) : LineText :=
  match l with
  | some l => if l.wf then .line l else .bad
  | none => .bad

/-- The line a text spells: `[agent:] MNEMONIC [operand]`, or a pseudo-operation (30_encoding.md R80, R81). -/
def readLine (text : List Char) : LineText :=
  match tokensFrom [] (stripComment text) with
  | [] => .blank
  | t :: ts =>
    match agentOf t with
    | some g => acceptLine ((readOperation ts).map (Line.op (some g)))
    | none =>
      match readOperation (t :: ts) with
      | some i => .line (.op none i)
      | none => acceptLine (readPseudo (t :: ts))

end Sys2Proof.Machine
end

