-- ==== Sys2Proof/Safety.lean ====
section
/-! DEFINITION. What counts as a good state and a safe run, in the terms the statements use. -/

namespace Sys2Proof.Machine

open Sys2Proof

/-- The values of a launch that 10_state.md R36 admits: ring contents in the ring, counters in [0, ARR]; any compare
values and any command byte. -/
def Launch.ok (c : Config) (d : Launch) : Bool :=
  d.rbBuf.wf c.cap && decide (d.cntA.toNat ≤ c.arr) && decide (d.cntB.toNat ≤ c.arr)

/-- The block takes steps: its configuration has runs, and neither model bit is set (10_state.md R35). -/
def State.live (s : State) : Bool := s.cfg.ok && !s.halted && !s.refused

/-- A good end of a run (10_state.md R35, 60_exceptions.md R199). -/
def State.goodEnd (s : State) : Bool := !s.halted && !s.refused

/-- Ring and table indices in their ranges, the ring in canonical form (00_scope.md R8, 10_state.md R23, R24, R29;
assumption log 4). -/
structure IndicesInRange (s : State) : Prop where
  ringWf : s.rbBuf.wf s.cfg.cap = true
  head : s.rbHead < s.cfg.cap
  tail : s.rbTail < s.cfg.cap
  tick : s.tickIndex < s.cfg.sineSamples

/-- The four enable bits of a timer all have one value (10_state.md R38). -/
def Timer.enables (x : Timer) (b : Bool) : Prop := x.cen = b ∧ x.cce = b ∧ x.ccne = b ∧ x.moe = b

/-- Phase, bridge state and enable bits agree (10_state.md R38). -/
structure PhaseMatchesBridge (s : State) : Prop where
  idleIff : s.phase = .idle ↔ s.bridgeState = .stopped
  stopped : s.bridgeState = .stopped → ∀ t, (s.tmr t).enables false
  running : s.bridgeState = .running → ∀ t, (s.tmr t).enables true

/-- The amplitude in its range, 0 in Idle, R in Running (10_state.md R39), below R in Starting (the tick that reaches R
leaves Starting, 42_ramp_controller.md R125). -/
structure AmplitudeInRange (s : State) : Prop where
  le : s.amp ≤ s.cfg.rampTicks
  idle : s.phase = .idle → s.amp = 0
  starting : s.phase = .starting → s.amp < s.cfg.rampTicks
  running : s.phase = .running → s.amp = s.cfg.rampTicks

/-- Both compare preloads hold one value, and no compare value exceeds ARR (10_state.md R40). -/
structure ComparesBounded (s : State) : Prop where
  same : s.tmrA.ccrPre = s.tmrB.ccrPre
  pre : s.tmrA.ccrPre.toNat ≤ s.cfg.arr
  act : ∀ t, (s.tmr t).ccrAct.toNat ≤ s.cfg.arr

/-- The invariant of the reachable states (10_state.md R30, R33, R38, R39, R40). -/
structure Inv (s : State) : Prop where
  config : s.cfg.ok = true
  indices : IndicesInRange s
  table : s.sineTable = tableEntries s.cfg
  bridge : PhaseMatchesBridge s
  amplitude : AmplitudeInRange s
  arr : ∀ t, (s.tmr t).arr = BitVec.ofNat 16 s.cfg.arr
  count : ∀ t, (s.tmr t).cnt.toNat ≤ s.cfg.arr
  compares : s.bridgeState = .running → ComparesBounded s

/-- `s` is reached in `n` steps from a launch of a valid configuration, whatever the unspecified values, under the
interleaving `run` (70_reset_and_hazards.md R225, 00_scope.md R15). -/
def ReachedIn (c : Config) (d : Launch) (run : List Event) (n : Nat) (s : State) : Prop :=
  c.ok = true ∧ d.ok c = true ∧
    Sys2Proof.core.run n { State.launch c d with agenda := run } = .next s

/-- The rational product `T × a / R` of 44_modulator.md R172. -/
def dutyProduct (c : Config) (T a : Nat) : ℚ := (T : ℚ) * (a : ℚ) / (c.rampTicks : ℚ)

/-- `v` is a value DUTY_ROUND admits for the duty of entry `T` at ramp counter `a`: the floor, or, with
ANY_NEIGHBOUR, the ceiling (44_modulator.md R172). -/
def AdmittedDuty (c : Config) (T a v : Nat) : Prop :=
  v = ⌊dutyProduct c T a⌋₊ ∨ (c.dutyRound = .anyNeighbour ∧ v = ⌈dutyProduct c T a⌉₊)

/-- A tick in `s` ends with ramp counter `a` and phase `p`, having written an admitted duty of the entry `T` to both
compare preloads and moved `tick_index` on, and nothing else but its response and, with ANY_NEIGHBOUR, the number of
the next draw (44_modulator.md R176). -/
def TickWrites (s : State) (T : Half) (a : Nat) (p : Phase) : Prop :=
  ∃ v k, AdmittedDuty s.cfg T.toNat a v ∧ v ≤ T.toNat ∧ (s.cfg.dutyRound = .floor → k = s.drawIndex) ∧
    exec .tick s = .next
      { s with
        amp := a
        phase := p
        tmrA := { s.tmrA with ccrPre := BitVec.ofNat 16 v }
        tmrB := { s.tmrB with ccrPre := BitVec.ofNat 16 v }
        tickIndex := (s.tickIndex + 1) % s.cfg.sineSamples
        drawIndex := k
        responses := (.tick, .ack) :: s.responses }

/-- The two states differ at most in ring slots that hold no unread byte and, while the command slot is empty, in its
value (10_state.md R36, R42). -/
structure DiffersInUnwritten (s s' : State) : Prop where
  rest : s' = { s with rbBuf := s'.rbBuf, cmdValue := s'.cmdValue }
  slot : s.cmdFull = true → s'.cmdValue = s.cmdValue
  unread : ∀ k, k < avail s → unreadByte s' k = unreadByte s k

/-- The command byte of the newest frame among some responses, newest first. -/
def newestCommand (rs : List (Agent × Response)) : Option Byte :=
  rs.findSome? fun x => match x.2 with
    | .frame p => p.head?
    | _ => none

/-- `n` TICK operations, issued by the tick agent. -/
def tickEvents (n : Nat) : List Event := List.replicate n (issueEvent (.tick, .tick))

/-- The number of TICK operations, issued by the tick agent, among some steps. -/
def ticksIn (evs : List Event) : Nat := evs.count (issueEvent (.tick, .tick))

/-- `n` DECODE operations, issued by the task agent. -/
def decodeEvents (n : Nat) : List Event := List.replicate n (issueEvent (.task, .decode))

end Sys2Proof.Machine
end

