-- ==== Sys2Proof/Certificates/Slice0/Obligations.lean ====
section
/-! DEFINITION. The statements. Each docstring names the rules of spec/ it formalises; what rests on a choice of the
model says so and names the log entry. -/

open Sys2Proof Sys2Proof.Machine

/-! ### Encoding -/

/-- 30_encoding.md R71, R74, R77: the decoder reads an operation from a word exactly when the word is that
operation's encoding; so decoding an encoded operation gives it back, operand and all, and no second word spells it. -/
def Obligations.DecodedWordsAreExactlyTheEncodings : Prop :=
  ∀ (w : Word) (i : Instr), decode w = .op i ↔ w = encode i

/-- 30_encoding.md R77, with the fields of R71 as numbers: total decoding and the counts of words. -/
def Obligations.DecodingFollowsTheFields : Prop :=
  (∀ (w : Word) (op rsv imm : Nat),
    op = w.toNat / 4096 → rsv = w.toNat / 256 % 16 → imm = w.toNat % 256 →
      (op = 0 ∨ 8 ≤ op → decode w = .invalid .reservedOpcode) ∧
      (1 ≤ op → op ≤ 7 → rsv ≠ 0 → decode w = .invalid .reservedBits) ∧
      (op = 2 → rsv = 0 → decode w = .op (.byteRx (BitVec.ofNat 8 imm))) ∧
      (1 ≤ op → op ≤ 7 → op ≠ 2 → rsv = 0 → imm ≠ 0 → decode w = .invalid .reservedBits) ∧
      (op = 1 → rsv = 0 → imm = 0 → decode w = .op .init) ∧
      (op = 3 → rsv = 0 → imm = 0 → decode w = .op .decode) ∧
      (op = 4 → rsv = 0 → imm = 0 → decode w = .op .cmdRead) ∧
      (op = 5 → rsv = 0 → imm = 0 → decode w = .op .start) ∧
      (op = 6 → rsv = 0 → imm = 0 → decode w = .op .stop) ∧
      (op = 7 → rsv = 0 → imm = 0 → decode w = .op .tick)) ∧
  (List.range 65536).countP (fun n => (decode (BitVec.ofNat 16 n)).instr?.isSome) = 262 ∧
  (List.range 65536).countP (fun n => (decode (BitVec.ofNat 16 n)).instr?.isNone) = 65274

/-- 95_test_vectors.md 2.1, 30_encoding.md R74: every word of that table (those refused there for their agent or for the
running bridge decode to their operation), and 0x200A, the first data word of 95_test_vectors.md 1.1. -/
def Obligations.SampleWordsDecode : Prop :=
  decode 0x1000#16 = .op .init ∧ decode 0x2000#16 = .op (.byteRx 0x00#8) ∧
  decode 0x20FF#16 = .op (.byteRx 0xFF#8) ∧ decode 0x200A#16 = .op (.byteRx 10#8) ∧
  decode 0x2041#16 = .op (.byteRx 0x41#8) ∧
  decode 0x3000#16 = .op .decode ∧ decode 0x4000#16 = .op .cmdRead ∧ decode 0x5000#16 = .op .start ∧
  decode 0x6000#16 = .op .stop ∧ decode 0x7000#16 = .op .tick ∧
  decode 0x0000#16 = .invalid .reservedOpcode ∧ decode 0x8000#16 = .invalid .reservedOpcode ∧
  decode 0x9000#16 = .invalid .reservedOpcode ∧
  decode 0xF123#16 = .invalid .reservedOpcode ∧ decode 0xFFFF#16 = .invalid .reservedOpcode ∧
  decode 0x1001#16 = .invalid .reservedBits ∧ decode 0x2100#16 = .invalid .reservedBits ∧
  decode 0x3F00#16 = .invalid .reservedBits ∧ decode 0x7100#16 = .invalid .reservedBits

/-- 30_encoding.md R74: a word selects the row of its operation by match and mask, no other row, and a word that no
row selects spells no operation. -/
def Obligations.MatchAndMaskSelectTheRow : Prop :=
  ∀ (w : Word) (i : Instr),
    ((w &&& i.maskBits = i.matchBits) ↔ ∃ j, decode w = .op j ∧ j.opcode = i.opcode)

/-! ### Issuing an operation -/

/-- 00_scope.md R11, R14, 30_encoding.md R77: a live block whose next agenda entry is a word that decodes to `i`, from
the owner of its opcode, steps as `exec i` with that entry taken. (The agenda is the model's, log 5.) -/
def Obligations.StepRunsTheDecodedOperation : Prop :=
  ∀ (s : State) (g : Agent) (w : Word) (rest : List Event) (i : Instr),
    s.live = true → s.agenda = .op g w :: rest → decode w = .op i → i.owner = g →
      step s = exec i { s with agenda := rest }

/-- The placed word is the next operation run (log 5), for every operation and operand. -/
def Obligations.PlacedWordRunsNext : Prop :=
  ∀ (s : State) (i : Instr), s.live = true →
    step (s.withFetchWord 16 (encode i).toNat) = exec i s ∧
    decodeTableWord 16 (encode i).toNat = some i

/-- 60_exceptions.md R199: the reasons in their order, that a refused step writes nothing but the `refused` bit (and
the model's record of the reason, log 8) and gives no response, that no step follows it, and that a configuration
violating R6 has no run. -/
def Obligations.RefusalReasonsInOrder : Prop :=
  (∀ (s : State) (g : Agent) (w : Word) (rest : List Event) (op rsv imm : Nat),
    s.live = true → s.agenda = .op g w :: rest →
    op = w.toNat / 4096 → rsv = w.toNat / 256 % 16 → imm = w.toNat % 256 →
    ∀ r : RefusalReason,
      ((r = .reservedOpcode ∧ (op = 0 ∨ 8 ≤ op)) ∨
       (r = .reservedBits ∧ 1 ≤ op ∧ op ≤ 7 ∧ (rsv ≠ 0 ∨ op ≠ 2 ∧ imm ≠ 0)) ∨
       (r = .wrongAgent ∧ 1 ≤ op ∧ op ≤ 7 ∧ rsv = 0 ∧ (op = 2 ∨ imm = 0) ∧
         g ≠ (if op = 2 then Agent.rx else if op = 7 then Agent.tick else Agent.task)) ∨
       (r = .initWhileRunning ∧ op = 1 ∧ rsv = 0 ∧ imm = 0 ∧ g = .task ∧ s.bridgeState = .running)) →
      step s = .next { s with agenda := rest, refused := true, refusalReason := some r }) ∧
  (∀ s : State, s.refused = true → s.goodEnd = false ∧ ∀ t, step s ≠ .next t) ∧
  (∀ s : State, s.cfg.ok = false → ∀ t, step s ≠ .next t)

/-- 60_exceptions.md R202: the halt step sets `halted` and leaves every other value, the timer fields among them, as
it was; after it no agent takes a step. That the step is an entry of the agenda, which it takes off, is the model's
(log 5); so is the fault a halted block then answers, also where `refused` is set too (log 7). -/
def Obligations.HaltStopsTheBlock : Prop :=
  ∀ (s : State) (rest : List Event), s.live = true → s.agenda = .halt :: rest →
    step s = .next { s with agenda := rest, halted := true } ∧
    (∀ s' : State, s'.cfg.ok = true → s'.halted = true → step s' = .fault .fatalHardwareFault)

/-- 10_state.md R35: no agent's or environment's own step, taken at any state, clears either bit; and a state with
either bit set takes no further step and is no good end. -/
def Obligations.ModelBitsAreFinal : Prop :=
  ∀ (s t : State) (e : Event),
    (takeEvent e s = .next t → (s.refused = true → t.refused = true) ∧ (s.halted = true → t.halted = true)) ∧
    ((s.refused = true ∨ s.halted = true) → step s ≠ .next t ∧ s.goodEnd = false)

/-- 00_scope.md R6, R7: the constraints on a configuration, and that one violating them has no run. -/
def Obligations.InvalidConfigurationHasNoRun : Prop :=
  ∀ s : State,
    (¬ (1 ≤ s.cfg.sineSamples ∧ 11 ≤ s.cfg.cap ∧ s.cfg.arr ≤ 0xFFFF ∧
        s.cfg.sineTable.length = s.cfg.sineSamples ∧ (∀ e ∈ s.cfg.sineTable, e ≤ s.cfg.arr) ∧
        1 ≤ s.cfg.rampTicks ∧ 0 < s.cfg.sineFreqHz ∧ 0 < s.cfg.softMs)) →
      step s = .refused .invalidConfiguration

/-- 20_memory.md R64, 30_encoding.md R79: every operation completes in one step, from every state: it gives its owner
one response of the kind R79 lists for it, or it is INIT refused while the bridge runs. -/
def Obligations.EveryOperationCompletesWithItsResponse : Prop :=
  ∀ (i : Instr) (s : State), ∃ t, exec i s = .next t ∧
    ((i = .init ∧ s.bridgeState = .running ∧ t.responses = s.responses ∧ t.refused = true) ∨
     (t.refused = s.refused ∧ ∃ r, r.wf = true ∧ t.responses = (i.owner, r) :: s.responses ∧
      match i with
      | .init => r.tag = 0x0#4
      | .byteRx _ => r.tag = 0x0#4
      | .decode => r.tag = 0x1#4 ∨ r.tag = 0x2#4
      | .cmdRead => r.tag = 0x3#4 ∨ r.tag = 0x4#4
      | .start => r.tag = 0x0#4
      | .stop => r.tag = 0x0#4
      | .tick => r.tag = 0x0#4))

/-! ### Reset -/

/-- 10_state.md R36, 70_reset_and_hazards.md R227: the reset state of every configuration and every draw of the
unspecified values, and that every value of those is drawn by some launch. The fields `cfg` (log 1), `agenda` (log 5)
and `responses` (log 8) are the model's own, and so are their values here. -/
def Obligations.LaunchHoldsTheResetValues : Prop :=
  (∀ (c : Config) (d : Launch), ∃ s, s = State.launch c d ∧
    s.rbHead = 0 ∧ s.rbTail = 0 ∧ s.cmdFull = false ∧ s.phase = .idle ∧ s.amp = 0 ∧ s.tickIndex = 0 ∧
    s.sineTable = c.sineTable.map (BitVec.ofNat 16) ∧ s.bridgeState = .stopped ∧
    (∀ t, (s.tmr t).arr = BitVec.ofNat 16 c.arr ∧ (s.tmr t).cen = false ∧ (s.tmr t).cce = false ∧
      (s.tmr t).ccne = false ∧ (s.tmr t).moe = false) ∧
    s.refused = false ∧ s.halted = false ∧ s.cfg = c ∧ s.agenda = [] ∧ s.responses = []) ∧
  (∀ (c : Config) (m : Memory) (v : Byte) (cnt pre act : TimerId → Half), ∃ d : Launch,
    (State.launch c d).rbBuf = m ∧ (State.launch c d).cmdValue = v ∧
    ∀ t, ((State.launch c d).tmr t).cnt = cnt t ∧ ((State.launch c d).tmr t).ccrPre = pre t ∧
      ((State.launch c d).tmr t).ccrAct = act t)

/-- 70_reset_and_hazards.md R225: INIT issued right after reset changes nothing (but that it is answered, log 8). -/
def Obligations.InitAfterResetChangesNothing : Prop :=
  ∀ (c : Config) (d : Launch),
    exec .init (State.launch c d) =
      .next { State.launch c d with responses := [(.task, .ack)] }

/-! ### What each operation does -/

/-- 44_modulator.md R173: INIT with the bridge stopped clears what it lists and writes nothing else; with the bridge
running it is refused. -/
def Obligations.InitClearsTheStoppedBlock : Prop :=
  ∀ s : State,
    (s.bridgeState = .stopped →
      exec .init s = .next
        { s with
          sineTable := s.cfg.sineTable.map (BitVec.ofNat 16), phase := .idle, amp := 0, tickIndex := 0,
          cmdFull := false, rbHead := 0, rbTail := 0, responses := (.task, .ack) :: s.responses }) ∧
    (s.bridgeState = .running →
      exec .init s = .next { s with refused := true, refusalReason := some .initWhileRunning })

/-- 40_frame_decoder.md R91, 20_memory.md R51: BYTE_RX writes its byte at `rb_head`, every other ring index reads as
before, `rb_head` moves on by one modulo CAP, and nothing else changes. -/
def Obligations.ByteRxStoresOneByte : Prop :=
  ∀ (s : State) (d : Byte), IndicesInRange s →
    ∃ t, exec (.byteRx d) s = .next t ∧ memRead t s.rbHead = d ∧
      (∀ i, i % s.cfg.cap ≠ s.rbHead % s.cfg.cap → memRead t i = memRead s i) ∧
      t.rbHead = (s.rbHead + 1) % s.cfg.cap ∧
      t = { s with rbBuf := t.rbBuf, rbHead := t.rbHead, responses := (.rx, .ack) :: s.responses }

/-- 40_frame_decoder.md R92: at most CAP − 1 bytes are unread; a byte received into a full ring empties it, and the
next one goes to the slot of the oldest byte; else one more byte is unread. -/
def Obligations.FullRingBecomesEmpty : Prop :=
  ∀ (s : State) (d : Byte), s.cfg.ok = true → IndicesInRange s →
    avail s ≤ s.cfg.cap - 1 ∧
    ∃ t, exec (.byteRx d) s = .next t ∧
      (avail s = s.cfg.cap - 1 → avail t = 0 ∧ t.rbHead = s.rbTail) ∧
      (avail s ≠ s.cfg.cap - 1 → avail t = avail s + 1)

/-- 40_frame_decoder.md R94, 60_exceptions.md R197, R198: DECODE's three ways, with the checksum of R93 written out. -/
def Obligations.DecodeTriesOneFrame : Prop :=
  ∀ (s : State) (b : Nat → Byte) (x : Byte), (∀ k, b k = memRead s (s.rbTail + k)) →
    x = 0x55#8 ^^^ b 0 ^^^ b 1 ^^^ b 2 ^^^ b 3 ^^^ b 4 ^^^ b 5 ^^^ b 6 ^^^ b 7 ^^^ b 8 →
    (avail s < 10 → exec .decode s = .next { s with responses := (.task, .noframe) :: s.responses }) ∧
    (10 ≤ avail s → x = b 9 →
      exec .decode s = .next
        { s with
          rbTail := (s.rbTail + 10) % s.cfg.cap, cmdValue := b 0, cmdFull := true,
          responses :=
            (.task, .frame [b 0, b 1, b 2, b 3, b 4, b 5, b 6, b 7, b 8]) :: s.responses }) ∧
    (10 ≤ avail s → x ≠ b 9 →
      exec .decode s = .next
        { s with
          rbTail := (s.rbTail + 1) % s.cfg.cap, responses := (.task, .noframe) :: s.responses })

/-- 40_frame_decoder.md R95: each DECODE consumes 0, 1 or 10 bytes (10 exactly when it returns a frame) and gives at
most one frame. -/
def Obligations.DecodeConsumesNoneOneOrTen : Prop :=
  ∀ s : State, s.cfg.ok = true → IndicesInRange s →
    ∃ t r, exec .decode s = .next t ∧ t.responses = (.task, r) :: s.responses ∧ t.rbHead = s.rbHead ∧
      ((avail s < 10 ∧ r = .noframe ∧ avail t = avail s) ∨
       (10 ≤ avail s ∧ r = .noframe ∧ avail t = avail s - 1) ∨
       (10 ≤ avail s ∧ (∃ p, p.length = 9 ∧ r = .frame p) ∧ avail t = avail s - 10))

/-- 40_frame_decoder.md R97: unread bytes that begin with a payload and its checksum decode to that payload, wherever
they lie in the ring, and exactly those ten bytes are consumed. -/
def Obligations.PayloadAndChecksumRoundTrip : Prop :=
  ∀ (s : State) (p : List Byte) (hp : p.length = 9), s.cfg.ok = true → IndicesInRange s → 10 ≤ avail s →
    (∀ (k : Nat) (h : k < 9), memRead s (s.rbTail + k) = p[k]) →
    memRead s (s.rbTail + 9) = 0x55#8 ^^^ p.foldr (fun b x => b ^^^ x) 0#8 →
    ∃ t, exec .decode s = .next t ∧ t.responses = (.task, .frame p) :: s.responses ∧
      avail t = avail s - 10 ∧ t.rbTail = (s.rbTail + 10) % s.cfg.cap ∧ t.cmdFull = true ∧
      p.head? = some t.cmdValue

/-- 30_encoding.md R81, 40_frame_decoder.md R91, R94, R97: the ten words of FRAME followed by DECODE, issued to a live
block with nothing unread, return exactly the payload and publish its byte 0; the words of BADFRAME return no frame,
and one byte is discarded. -/
def Obligations.ReceivedFrameIsDecoded : Prop :=
  ∀ (s : State) (p : List Byte) (m : Byte) (rest : List Event),
    s.live = true → IndicesInRange s → avail s = 0 → p.length = 9 →
    (s.agenda = programAgenda [.frame p, .op none .decode] ++ rest →
      ∃ t, Sys2Proof.core.run 11 s = .next t ∧ t.agenda = rest ∧ avail t = 0 ∧ t.cmdFull = true ∧
        p.head? = some t.cmdValue ∧
        t.responses = (.task, .frame p) :: (List.replicate 10 (.rx, .ack) ++ s.responses)) ∧
    (m ≠ 0#8 → s.agenda = programAgenda [.badFrame m p, .op none .decode] ++ rest →
      ∃ t, Sys2Proof.core.run 11 s = .next t ∧ t.agenda = rest ∧ avail t = 9 ∧
        t.cmdFull = s.cmdFull ∧ t.cmdValue = s.cmdValue ∧
        t.responses = (.task, .noframe) :: (List.replicate 10 (.rx, .ack) ++ s.responses))

/-- 40_frame_decoder.md R96: after a corrupted frame F and a well-formed frame G, where no window that starts in F
satisfies the checksum, ten DECODEs return no frame and discard F byte by byte, and the eleventh returns G. -/
def Obligations.ResyncDiscardsTheCorruptedFrame : Prop :=
  ∀ (s : State) (b : Nat → Byte) (rest : List Event),
    s.live = true → IndicesInRange s → 20 ≤ avail s → (∀ k, b k = memRead s (s.rbTail + k)) →
    (∀ k, k < 10 → chk ((List.range 9).map fun j => b (k + j)) ≠ b (k + 9)) →
    chk ((List.range 9).map fun j => b (10 + j)) = b 19 →
    s.agenda = decodeEvents 11 ++ rest →
    (∀ n, n ≤ 10 → ∃ t, Sys2Proof.core.run n s = .next t ∧ t.rbTail = (s.rbTail + n) % s.cfg.cap ∧
      t.responses = List.replicate n (.task, .noframe) ++ s.responses) ∧
    ∃ t, Sys2Proof.core.run 11 s = .next t ∧ t.rbTail = (s.rbTail + 20) % s.cfg.cap ∧ t.agenda = rest ∧
      t.responses = (.task, .frame ((List.range 9).map fun j => b (10 + j))) ::
        (List.replicate 10 (.task, .noframe) ++ s.responses)

/-- 40_frame_decoder.md R98: where in the ring the unread bytes lie does not matter to DECODE: two states with the same
unread bytes answer alike and are left with the same unread bytes and the same command slot. -/
def Obligations.WrappedFramesDecodeAlike : Prop :=
  ∀ s s' : State, s.cfg.ok = true → s'.cfg = s.cfg → IndicesInRange s → IndicesInRange s' →
    avail s' = avail s → (∀ k, k < avail s → memRead s' (s'.rbTail + k) = memRead s (s.rbTail + k)) →
    s'.cmdFull = s.cmdFull → s'.cmdValue = s.cmdValue →
    ∃ t t' r, exec .decode s = .next t ∧ exec .decode s' = .next t' ∧
      t.responses = (.task, r) :: s.responses ∧ t'.responses = (.task, r) :: s'.responses ∧
      avail t' = avail t ∧ (∀ k, k < avail t → memRead t' (t'.rbTail + k) = memRead t (t.rbTail + k)) ∧
      t'.cmdFull = t.cmdFull ∧ t'.cmdValue = t.cmdValue

/-- 41_command_channel.md R112: CMD_READ takes the value, or answers EMPTY. -/
def Obligations.CmdReadTakesTheValue : Prop :=
  ∀ s : State,
    (s.cmdFull = true →
      exec .cmdRead s = .next
        { s with cmdFull := false, responses := (.task, .value s.cmdValue) :: s.responses }) ∧
    (s.cmdFull = false →
      exec .cmdRead s = .next { s with responses := (.task, .empty) :: s.responses })

/-- 41_command_channel.md R113: from an empty slot, after any steps with no CMD_READ and no INIT among them, CMD_READ
returns the command byte of the last frame returned since, or EMPTY if there was none. -/
def Obligations.CmdReadSeesTheLastPublished : Prop :=
  ∀ (s t : State) (evs rest : List Event), s.cmdFull = false → s.agenda = evs ++ rest →
    (∀ g, Event.op g (encode .cmdRead) ∉ evs) → (∀ g, Event.op g (encode .init) ∉ evs) →
    Sys2Proof.core.run evs.length s = .next t →
    ∃ new u, t.responses = new ++ s.responses ∧ exec .cmdRead t = .next u ∧
      u.responses = (.task, match newestCommand new with
        | some v => .value v
        | none => .empty) :: t.responses ∧ u.cmdFull = false

/-- 44_modulator.md R174, 42_ramp_controller.md R126, 43_bridge_driver.md R148: START in each phase. -/
def Obligations.StartBeginsASoftStart : Prop :=
  ∀ s : State,
    (s.phase = .idle →
      exec .start s = .next
        { s with
          phase := .starting, amp := 0, bridgeState := .running,
          tmrA :=
            { cnt := 0#16, ccrPre := 0#16, ccrAct := 0#16, arr := s.tmrA.arr, cen := true, cce := true,
              ccne := true, moe := true },
          tmrB :=
            { cnt := 0#16, ccrPre := 0#16, ccrAct := 0#16, arr := s.tmrB.arr, cen := true, cce := true,
              ccne := true, moe := true },
          responses := (.task, .ack) :: s.responses }) ∧
    (s.phase = .stopping → s.cfg.startWhileStopping = .restart →
      exec .start s = .next
        { s with phase := .starting, amp := 0, responses := (.task, .ack) :: s.responses }) ∧
    (s.phase = .stopping → s.cfg.startWhileStopping = .ignore →
      exec .start s = .next { s with responses := (.task, .ack) :: s.responses }) ∧
    (s.phase = .starting ∨ s.phase = .running →
      exec .start s = .next { s with responses := (.task, .ack) :: s.responses })

/-- 44_modulator.md R175, 42_ramp_controller.md R127: STOP in each phase. -/
def Obligations.StopBeginsASoftStop : Prop :=
  ∀ s : State,
    (s.phase = .starting ∨ s.phase = .running →
      exec .stop s = .next { s with phase := .stopping, responses := (.task, .ack) :: s.responses }) ∧
    (s.phase = .idle ∨ s.phase = .stopping →
      exec .stop s = .next { s with responses := (.task, .ack) :: s.responses })

/-- 44_modulator.md R176, 42_ramp_controller.md R128, 43_bridge_driver.md R151: TICK in Idle, on the tick that reaches
Idle, and on every other tick, with the duty of R172. The number of the next draw is the model's (log 9). -/
def Obligations.TickIsOneModulationUpdate : Prop :=
  ∀ (s : State) (T : Half) (a : Int), s.cfg.ok = true → s.sineTable[s.tickIndex]? = some T →
    (s.phase = .idle → exec .tick s = .next { s with responses := (.tick, .ack) :: s.responses }) ∧
    (s.phase ≠ .idle → a = (if s.phase = .stopping then (s.amp : Int) - 1 else (s.amp : Int) + 1) →
      ((s.cfg.rampTicks : Int) ≤ a → TickWrites s T s.cfg.rampTicks .running) ∧
      (a < s.cfg.rampTicks → a ≤ 0 →
        exec .tick s = .next
          { s with
            amp := 0, phase := .idle, bridgeState := .stopped,
            tmrA := { s.tmrA with moe := false, cen := false, cce := false, ccne := false, cnt := 0#16 },
            tmrB := { s.tmrB with moe := false, cen := false, cce := false, ccne := false, cnt := 0#16 },
            responses := (.tick, .ack) :: s.responses }) ∧
      (a < s.cfg.rampTicks → 0 < a → TickWrites s T a.toNat s.phase))

/-- 43_bridge_driver.md R149, R150: the timer agents' steps are enabled only while `cen = 1`, an update event loads the
preload of its own timer, counting draws any value in [0, ARR] for its own timer, and neither changes anything else.
(The agenda is the model's, log 5, and so is that an entry that is not enabled stops the run, log 10; that an update
event transfers the preload is the spec's general knowledge, log 15.) -/
def Obligations.TimerAgentsStepWhileCounting : Prop :=
  ∀ (s : State) (t : TimerId) (c : Half) (e : Event) (rest : List Event), s.live = true → s.agenda = e :: rest →
    (e = .update .A → s.tmrA.cen = true →
      step s = .next { s with agenda := rest, tmrA := { s.tmrA with ccrAct := s.tmrA.ccrPre } }) ∧
    (e = .update .B → s.tmrB.cen = true →
      step s = .next { s with agenda := rest, tmrB := { s.tmrB with ccrAct := s.tmrB.ccrPre } }) ∧
    (e = .count .A c → s.tmrA.cen = true → c.toNat ≤ s.cfg.arr →
      step s = .next { s with agenda := rest, tmrA := { s.tmrA with cnt := c } }) ∧
    (e = .count .B c → s.tmrB.cen = true → c.toNat ≤ s.cfg.arr →
      step s = .next { s with agenda := rest, tmrB := { s.tmrB with cnt := c } }) ∧
    (e = .update t ∨ e = .count t c → (match t with | .A => s.tmrA.cen | .B => s.tmrB.cen) = false →
      ∀ s', step s ≠ .next s') ∧
    (e = .count t c → s.cfg.arr < c.toNat → ∀ s', step s ≠ .next s')

/-! ### Frames -/

/-- The receive side leaves the drive side alone: BYTE_RX, DECODE and CMD_READ change no ramp, table, bridge or timer
value, and each leaves what it does not own (10_state.md R22, R23, R24, R25, R37). -/
def Obligations.ReceiveSideFrame : Prop :=
  ∀ (s t : State) (d : Byte) (i : Instr), (i = .byteRx d ∨ i = .decode ∨ i = .cmdRead) → exec i s = .next t →
    (t.phase = s.phase ∧ t.amp = s.amp ∧ t.tickIndex = s.tickIndex ∧ t.sineTable = s.sineTable ∧
      t.bridgeState = s.bridgeState ∧ t.tmrA = s.tmrA ∧ t.tmrB = s.tmrB ∧ t.refused = s.refused ∧
      t.halted = s.halted ∧ t.cfg = s.cfg ∧ t.agenda = s.agenda ∧ t.refusalReason = s.refusalReason ∧
      t.drawIndex = s.drawIndex) ∧
    (i = .byteRx d → t.rbTail = s.rbTail ∧ t.cmdFull = s.cmdFull ∧ t.cmdValue = s.cmdValue) ∧
    (i = .decode → t.rbHead = s.rbHead ∧ ∀ j, memRead t j = memRead s j) ∧
    (i = .cmdRead → t.rbHead = s.rbHead ∧ t.rbTail = s.rbTail ∧ t.cmdValue = s.cmdValue ∧
      ∀ j, memRead t j = memRead s j)

/-- The drive side leaves the receive side alone: START, STOP and TICK change no ring, slot or table value; STOP no
bridge or timer value; START no table index; TICK no active compare value (44_modulator.md R174 to R176,
70_reset_and_hazards.md R232). -/
def Obligations.DriveSideFrame : Prop :=
  ∀ (s t : State) (i : Instr), (i = .start ∨ i = .stop ∨ i = .tick) → exec i s = .next t →
    (t.rbHead = s.rbHead ∧ t.rbTail = s.rbTail ∧ (∀ j, memRead t j = memRead s j) ∧ t.cmdFull = s.cmdFull ∧
      t.cmdValue = s.cmdValue ∧ t.sineTable = s.sineTable ∧ t.refused = s.refused ∧ t.halted = s.halted ∧
      t.cfg = s.cfg ∧ t.agenda = s.agenda ∧ t.refusalReason = s.refusalReason ∧
      ∀ u, (t.tmr u).arr = (s.tmr u).arr) ∧
    (i = .stop → t.bridgeState = s.bridgeState ∧ t.tmrA = s.tmrA ∧ t.tmrB = s.tmrB ∧ t.amp = s.amp ∧
      t.tickIndex = s.tickIndex ∧ t.drawIndex = s.drawIndex) ∧
    (i = .start → t.tickIndex = s.tickIndex ∧ t.drawIndex = s.drawIndex) ∧
    (i = .tick → ∀ u, (t.tmr u).ccrAct = (s.tmr u).ccrAct)

/-- 41_command_channel.md R115: the command slot enters no computation of the block but CMD_READ's: every operation but
DECODE and CMD_READ does the same whatever the slot's value. -/
def Obligations.CommandValueDrivesNothing : Prop :=
  ∀ (s t : State) (i : Instr) (v : Byte), i ≠ .decode → i ≠ .cmdRead → exec i s = .next t →
    exec i { s with cmdValue := v } = .next { t with cmdValue := v }

/-- 10_state.md R30, R33, 20_memory.md R52: no step writes the configuration or a timer's maximum count, and only INIT
writes the sine table. -/
def Obligations.ConfigurationAndTableAreConstant : Prop :=
  ∀ s t : State, step s = .next t →
    t.cfg = s.cfg ∧ (∀ u, (t.tmr u).arr = (s.tmr u).arr) ∧
    (t.sineTable = s.sineTable ∨
      (s.agenda.head? = some (.op .task (encode .init)) ∧ s.bridgeState = .stopped ∧
        t.sineTable = s.cfg.sineTable.map (BitVec.ofNat 16)))

/-! ### The ramp -/

/-- 42_ramp_controller.md R125: the table of transitions of `phase` and `amp`, and beside it what each cell leaves of
the bridge: START from Idle runs it (44_modulator.md R174), the TICK into Idle stops it, no other cell changes it. -/
def Obligations.PhaseTransitionTable : Prop :=
  ∀ s : State, Inv s → ∃ u v w, exec .start s = .next u ∧ exec .stop s = .next v ∧ exec .tick s = .next w ∧
    v.bridgeState = s.bridgeState ∧
    (s.phase = .idle →
      s.bridgeState = .stopped ∧
      (u.phase = .starting ∧ u.amp = 0 ∧ u.bridgeState = .running) ∧ (v.phase = .idle ∧ v.amp = s.amp) ∧
      (w.phase = .idle ∧ w.amp = s.amp ∧ w.bridgeState = .stopped)) ∧
    (s.phase ≠ .idle → s.bridgeState = .running ∧ u.bridgeState = .running) ∧
    (s.phase = .starting →
      (u.phase = .starting ∧ u.amp = s.amp) ∧ (v.phase = .stopping ∧ v.amp = s.amp) ∧
      w.amp = s.amp + 1 ∧ w.bridgeState = .running ∧
      w.phase = (if s.cfg.rampTicks ≤ s.amp + 1 then .running else .starting)) ∧
    (s.phase = .running →
      (u.phase = .running ∧ u.amp = s.amp) ∧ (v.phase = .stopping ∧ v.amp = s.amp) ∧
      (w.phase = .running ∧ w.amp = s.cfg.rampTicks ∧ w.bridgeState = .running)) ∧
    (s.phase = .stopping →
      (s.cfg.startWhileStopping = .restart → u.phase = .starting ∧ u.amp = 0) ∧
      (s.cfg.startWhileStopping = .ignore → u.phase = .stopping ∧ u.amp = s.amp) ∧
      (v.phase = .stopping ∧ v.amp = s.amp) ∧ w.amp = s.amp - 1 ∧
      (s.amp ≤ 1 → w.phase = .idle ∧ w.bridgeState = .stopped ∧ ∀ t, (w.tmr t).enables false) ∧
      (1 < s.amp → w.phase = .stopping ∧ w.bridgeState = .running))

/-- 42_ramp_controller.md R132: STOP in Idle or Stopping, START in Starting or Running and TICK in Idle change no state
(but that they are answered, log 8). -/
def Obligations.RepeatedRequestsChangeNothing : Prop :=
  ∀ s : State,
    ((s.phase = .idle ∨ s.phase = .stopping) →
      exec .stop s = .next { s with responses := (.task, .ack) :: s.responses }) ∧
    ((s.phase = .starting ∨ s.phase = .running) →
      exec .start s = .next { s with responses := (.task, .ack) :: s.responses }) ∧
    (s.phase = .idle → exec .tick s = .next { s with responses := (.tick, .ack) :: s.responses })

/-- 42_ramp_controller.md R131: a step stops the bridge exactly when it brings the phase into Idle, that step is a
TICK, and a step out of Idle is a START, which runs the bridge; so the bridge is stopped once per stop. -/
def Obligations.BridgeStopsOncePerStop : Prop :=
  ∀ s t : State, Inv s → step s = .next t →
    ((s.bridgeState = .running ∧ t.bridgeState = .stopped) ↔ (s.phase ≠ .idle ∧ t.phase = .idle)) ∧
    (s.phase ≠ .idle → t.phase = .idle → s.agenda.head? = some (.op .tick (encode .tick))) ∧
    (s.phase = .idle → t.phase ≠ .idle →
      s.agenda.head? = some (.op .task (encode .start)) ∧ t.bridgeState = .running)

/-- 10_state.md R41: the amplitude never decreases while the phase stays Starting and never increases while it stays
Stopping. -/
def Obligations.AmplitudeIsMonotone : Prop :=
  ∀ s t : State, step s = .next t →
    (s.phase = .starting → t.phase = .starting → s.amp ≤ t.amp) ∧
    (s.phase = .stopping → t.phase = .stopping → t.amp ≤ s.amp)

/-- 42_ramp_controller.md R129: after START from Idle, or from Stopping with RESTART, and any steps of any agent with
no STOP among them, the amplitude is `min(k, R)` for the `k` ticks so far, in phase Starting before R and Running from
R on; the run of ticks alone takes place. -/
def Obligations.SoftStartTakesRampTicks : Prop :=
  ∀ (s : State) (evs rest : List Event), Inv s →
    (s.phase = .idle ∨ s.phase = .stopping ∧ s.cfg.startWhileStopping = .restart) →
    s.agenda = issueEvent (.task, .start) :: (evs ++ rest) → (∀ g, Event.op g (encode .stop) ∉ evs) →
    (∀ t, Sys2Proof.core.run (evs.length + 1) s = .next t →
      t.agenda = rest ∧ t.amp = min (ticksIn evs) s.cfg.rampTicks ∧
      t.phase = (if ticksIn evs < s.cfg.rampTicks then .starting else .running) ∧
      (s.cfg.rampTicks ≤ ticksIn evs → amplitude t = 1)) ∧
    (s.live = true → ∀ k, evs = tickEvents k → ∃ t, Sys2Proof.core.run (evs.length + 1) s = .next t)

/-- 42_ramp_controller.md R130: after STOP at amplitude `a` and any steps of any agent with no START among them, the
amplitude is `max(a − k, 0)` for the `k` ticks so far; the phase becomes Idle and the bridge stops at tick `max(a, 1)`
and at no other; the run of ticks alone takes place. -/
def Obligations.SoftStopTakesTheAmplitudeReached : Prop :=
  ∀ (s : State) (evs rest : List Event), Inv s → (s.phase = .starting ∨ s.phase = .running) →
    s.agenda = issueEvent (.task, .stop) :: (evs ++ rest) → (∀ g, Event.op g (encode .start) ∉ evs) →
    (∀ t, Sys2Proof.core.run (evs.length + 1) s = .next t →
      t.agenda = rest ∧ t.amp = s.amp - ticksIn evs ∧
      t.phase = (if max s.amp 1 ≤ ticksIn evs then .idle else .stopping) ∧
      t.bridgeState = (if max s.amp 1 ≤ ticksIn evs then .stopped else .running)) ∧
    (s.live = true → ∀ k, evs = tickEvents k → ∃ t, Sys2Proof.core.run (evs.length + 1) s = .next t)

/-! ### The duty -/

/-- 44_modulator.md R177: every value a tick writes is at most its table entry and ARR, and is the exact product within
the rounding tolerance. -/
def Obligations.DutyIsBounded : Prop :=
  ∀ s t : State, Inv s → s.phase ≠ .idle → exec .tick s = .next t → t.phase ≠ .idle →
    ∃ T, s.sineTable[s.tickIndex]? = some T ∧ t.tmrA.ccrPre = t.tmrB.ccrPre ∧
      t.tmrA.ccrPre.toNat ≤ T.toNat ∧ T.toNat ≤ s.cfg.arr ∧
      (s.cfg.dutyRound = .floor →
        0 ≤ dutyProduct s.cfg T.toNat t.amp - t.tmrA.ccrPre.toNat ∧
        dutyProduct s.cfg T.toNat t.amp - t.tmrA.ccrPre.toNat < 1) ∧
      (s.cfg.dutyRound = .anyNeighbour →
        |dutyProduct s.cfg T.toNat t.amp - t.tmrA.ccrPre.toNat| < 1)

/-- 44_modulator.md R179: after START from Idle the k-th tick writes the duty of entry `(j + k − 1) mod N` at
amplitude `min(k, R)` to both compare preloads. -/
def Obligations.DutySequenceAfterStart : Prop :=
  ∀ (s : State) (k : Nat) (rest : List Event), Inv s → s.live = true → s.phase = .idle → 1 ≤ k →
    s.agenda = issueEvent (.task, .start) :: (tickEvents k ++ rest) →
    ∃ t T, Sys2Proof.core.run (k + 1) s = .next t ∧
      s.sineTable[(s.tickIndex + k - 1) % s.cfg.sineSamples]? = some T ∧
      AdmittedDuty s.cfg T.toNat (min k s.cfg.rampTicks) t.tmrA.ccrPre.toNat ∧
      t.tmrB.ccrPre = t.tmrA.ccrPre ∧ t.tickIndex = (s.tickIndex + k) % s.cfg.sineSamples

/-- 44_modulator.md R180: after STOP from Running the k-th tick, k < R, writes the duty of entry `(j + k − 1) mod N` at
amplitude `R − k`; the R-th tick stops the bridge, writes no duty and leaves `tick_index = (j + R − 1) mod N`. -/
def Obligations.DutySequenceAfterStop : Prop :=
  ∀ (s : State) (k : Nat) (rest : List Event), Inv s → s.live = true → s.phase = .running → 1 ≤ k →
    s.agenda = issueEvent (.task, .stop) :: (tickEvents k ++ rest) →
    (k < s.cfg.rampTicks →
      ∃ t T, Sys2Proof.core.run (k + 1) s = .next t ∧
        s.sineTable[(s.tickIndex + k - 1) % s.cfg.sineSamples]? = some T ∧
        AdmittedDuty s.cfg T.toNat (s.cfg.rampTicks - k) t.tmrA.ccrPre.toNat ∧
        t.tmrB.ccrPre = t.tmrA.ccrPre) ∧
    (k = s.cfg.rampTicks →
      ∃ u t, Sys2Proof.core.run k s = .next u ∧ Sys2Proof.core.run (k + 1) s = .next t ∧
        t.phase = .idle ∧ t.bridgeState = .stopped ∧
        t.tmrA.ccrPre = u.tmrA.ccrPre ∧ t.tmrB.ccrPre = u.tmrB.ccrPre ∧
        t.tickIndex = (s.tickIndex + s.cfg.rampTicks - 1) % s.cfg.sineSamples)

/-! ### The bridge -/

/-- 43_bridge_driver.md R155, R152: from a stopped bridge, after steps (0) to (2) of BridgeStartSeq no output is enabled;
at steps (3) and (4), where the outputs become enabled, both timers have counter and compare values 0 and do not
count. -/
def Obligations.OutputsEnabledOnlyWhenZeroed : Prop :=
  ∀ (s : State) (n : Nat) (t : TimerId), PhaseMatchesBridge s → s.bridgeState = .stopped →
    (n ≤ 4 → outMainEn (runSteps (bridgeStartSteps.take n) s) t = false ∧
      outCompEn (runSteps (bridgeStartSteps.take n) s) t = false) ∧
    (3 ≤ n → n ≤ 5 →
      ((runSteps (bridgeStartSteps.take n) s).tmr t).cnt = 0#16 ∧
      ((runSteps (bridgeStartSteps.take n) s).tmr t).ccrPre = 0#16 ∧
      ((runSteps (bridgeStartSteps.take n) s).tmr t).ccrAct = 0#16 ∧
      ((runSteps (bridgeStartSteps.take n) s).tmr t).cen = false)

/-- 43_bridge_driver.md R156: step (1) of BridgeStopSeq clears `moe` on both timers and changes nothing else, and from
it on every gate enable is 0. -/
def Obligations.OutputsGatedFirstOnStop : Prop :=
  ∀ (s : State) (n : Nat) (t : TimerId),
    runSteps (bridgeStopSteps.take 1) s =
      { s with tmrA := { s.tmrA with moe := false }, tmrB := { s.tmrB with moe := false } } ∧
    (1 ≤ n → outMainEn (runSteps (bridgeStopSteps.take n) s) t = false ∧
      outCompEn (runSteps (bridgeStopSteps.take n) s) t = false)

/-- 10_state.md R34, R38: in a state that meets the invariant the gate enables of both legs say whether the bridge
runs. -/
def Obligations.GateEnablesFollowTheBridge : Prop :=
  ∀ (s : State) (t : TimerId), Inv s →
    (outMainEn s t = true ↔ s.bridgeState = .running) ∧ (outCompEn s t = true ↔ s.bridgeState = .running)

/-- The outputs of a leg, main and complementary (10_state.md R34), become enabled only by a START from Idle, which
leaves both counters and all compare values 0, and become disabled only by the last TICK of a soft stop, which
leaves both counters 0 and stopped; all four outputs change together (10_state.md R37, R38, 43_bridge_driver.md R148,
R151, R155). -/
def Obligations.OnlyStartEnablesOutputs : Prop :=
  ∀ (s t : State) (u : TimerId), Inv s → step s = .next t →
    (outMainEn s u = false ∧ outMainEn t u = true ∨ outCompEn s u = false ∧ outCompEn t u = true →
      s.agenda.head? = some (.op .task (encode .start)) ∧ s.phase = .idle ∧
      (∀ x, outMainEn t x = true ∧ outCompEn t x = true) ∧
      ∀ x, (t.tmr x).cnt = 0#16 ∧ (t.tmr x).ccrPre = 0#16 ∧ (t.tmr x).ccrAct = 0#16) ∧
    (outMainEn s u = true ∧ outMainEn t u = false ∨ outCompEn s u = true ∧ outCompEn t u = false →
      s.agenda.head? = some (.op .tick (encode .tick)) ∧ s.phase = .stopping ∧ s.amp ≤ 1 ∧
      t.phase = .idle ∧ (∀ x, outMainEn t x = false ∧ outCompEn t x = false) ∧
      ∀ x, (t.tmr x).cnt = 0#16 ∧ (t.tmr x).cen = false)

/-! ### Invariants -/

/-- 10_state.md R36 to R40: every launch of a valid configuration, whatever the unspecified values, meets the
invariant; `State.reset` is one of them (logs 2, 3, 4). -/
def Obligations.LaunchMeetsTheInvariant : Prop :=
  (∀ (c : Config) (d : Launch), c.ok = true → d.ok c = true →
    Inv (State.launch c d) ∧ (State.launch c d).live = true) ∧
  Inv State.reset ∧ State.reset = State.launch Config.default Launch.zero ∧ Config.default.ok = true ∧
  Launch.zero.ok Config.default = true

/-- 10_state.md R30, R33, R38, R39, R40, 42_ramp_controller.md R133: every step, of every agent and the environment,
keeps the invariant. -/
def Obligations.StepKeepsTheInvariant : Prop :=
  ∀ s t : State, Inv s → step s = .next t → Inv t

/-- 10_state.md R38: in every state reachable from reset, Idle is exactly Stopped, and the enable bits follow. -/
def Obligations.ReachablePhaseMatchesBridge : Prop :=
  ∀ (c : Config) (d : Launch) (run : List Event) (n : Nat) (s : State), ReachedIn c d run n s →
    (s.phase = .idle ↔ s.bridgeState = .stopped) ∧
    (s.bridgeState = .running →
      ∀ t, (s.tmr t).cen = true ∧ (s.tmr t).cce = true ∧ (s.tmr t).ccne = true ∧ (s.tmr t).moe = true) ∧
    (s.bridgeState = .stopped →
      ∀ t, (s.tmr t).cen = false ∧ (s.tmr t).cce = false ∧ (s.tmr t).ccne = false ∧ (s.tmr t).moe = false)

/-- 10_state.md R39: in every reachable state the amplitude counter is in [0, R], 0 in Idle, R in Running. -/
def Obligations.ReachableAmplitudeInRange : Prop :=
  ∀ (c : Config) (d : Launch) (run : List Event) (n : Nat) (s : State), ReachedIn c d run n s →
    0 ≤ s.amp ∧ s.amp ≤ c.rampTicks ∧ (s.phase = .idle → s.amp = 0) ∧
    (s.phase = .running → s.amp = c.rampTicks)

/-- 10_state.md R40: in every reachable state after at least one completed START both compare preloads are equal, and
no compare value exceeds ARR. -/
def Obligations.ComparesEqualOnceStarted : Prop :=
  ∀ (c : Config) (d : Launch) (run : List Event) (m n : Nat) (s s' t : State), ReachedIn c d run m s →
    s.agenda.head? = some (.op .task (encode .start)) → step s = .next s' →
    Sys2Proof.core.run n s' = .next t →
    t.tmrA.ccrPre = t.tmrB.ccrPre ∧ t.tmrA.ccrPre.toNat ≤ c.arr ∧
    t.tmrA.ccrAct.toNat ≤ c.arr ∧ t.tmrB.ccrAct.toNat ≤ c.arr

/-- 10_state.md R42: a step cannot tell two states apart that differ only in ring slots holding no unread byte and in
the value of an empty command slot: both step alike, to states that again differ only so. -/
def Obligations.StepIgnoresUnwrittenStorage : Prop :=
  ∀ s s' t : State, IndicesInRange s → IndicesInRange s' → DiffersInUnwritten s s' → step s = .next t →
    ∃ t', step s' = .next t' ∧ DiffersInUnwritten t t'

/-- 10_state.md R36, R42: the unspecified reset contents of `rb_buf` and `cmd_value` are never observed: two launches
that differ only in them give the same responses and drive the timers alike under every interleaving. -/
def Obligations.ResetContentsNeverObserved : Prop :=
  ∀ (c : Config) (d d' : Launch) (run : List Event) (n : Nat) (s : State), ReachedIn c d run n s →
    d' = { d with rbBuf := d'.rbBuf, cmdValue := d'.cmdValue } → d'.ok c = true →
    ∃ s', ReachedIn c d' run n s' ∧ s'.responses = s.responses ∧ s'.tmrA = s.tmrA ∧ s'.tmrB = s.tmrB ∧
      s'.phase = s.phase ∧ s'.refusalReason = s.refusalReason

/-! ### Values and notation -/

/-- 41_command_channel.md R111: the commanded amplitude is `cmd_value / 255`, in [0, 1]; 0 is 0.0, 255 is 1.0, 10 is
10/255, and the byte is recovered from it (10_state.md R25). -/
def Obligations.CommandedAmplitudeIsAByteOver255 : Prop :=
  ∀ s s' : State, commandedAmplitude s * 255 = s.cmdValue.toNat ∧
    0 ≤ commandedAmplitude s ∧ commandedAmplitude s ≤ 1 ∧
    (s.cmdValue = 0#8 → commandedAmplitude s = 0) ∧ (s.cmdValue = 255#8 → commandedAmplitude s = 1) ∧
    (s.cmdValue = 10#8 → commandedAmplitude s = 10 / 255) ∧
    (commandedAmplitude s = commandedAmplitude s' → s.cmdValue = s'.cmdValue)

/-- 30_encoding.md R81: the expansions of the pseudo-operations, each operation issued by its owner and encoded on its
own. -/
def Obligations.PseudoOperationsExpand : Prop :=
  (∀ bs : List Byte, expandLine (.bytes bs) = bs.map fun b => (.rx, .byteRx b)) ∧
  (∀ p0 p1 p2 p3 p4 p5 p6 p7 p8 m : Byte,
    expandLine (.frame [p0, p1, p2, p3, p4, p5, p6, p7, p8]) =
      [p0, p1, p2, p3, p4, p5, p6, p7, p8,
        0x55#8 ^^^ p0 ^^^ p1 ^^^ p2 ^^^ p3 ^^^ p4 ^^^ p5 ^^^ p6 ^^^ p7 ^^^ p8].map
          (fun b => (Agent.rx, Instr.byteRx b)) ∧
    expandLine (.badFrame m [p0, p1, p2, p3, p4, p5, p6, p7, p8]) =
      [p0, p1, p2, p3, p4, p5, p6, p7, p8,
        0x55#8 ^^^ p0 ^^^ p1 ^^^ p2 ^^^ p3 ^^^ p4 ^^^ p5 ^^^ p6 ^^^ p7 ^^^ p8 ^^^ m].map
          (fun b => (Agent.rx, Instr.byteRx b))) ∧
  (∀ n : Nat, expandLine (.ticks n) = List.replicate n (.tick, .tick)) ∧
  (∀ l : Line, programAgenda [l] = (expandLine l).map fun x => .op x.1 (encode x.2))
end

