-- ==== Sys2Proof/Laws/State.lean ====
section
/-! SUPPORT. One lemma per field per update of the state, so that no later proof unfolds a record update. -/

namespace Sys2Proof.Machine

open Sys2Proof

variable (s : State)

/-! ### `memWrite` -/

@[simp] theorem memWrite_rbBuf (i : Nat) (v : Byte) : (memWrite s i v).rbBuf = s.rbBuf.write (i % s.cfg.cap) v := rfl
@[simp] theorem memWrite_rbHead (i : Nat) (v : Byte) : (memWrite s i v).rbHead = s.rbHead := rfl
@[simp] theorem memWrite_rbTail (i : Nat) (v : Byte) : (memWrite s i v).rbTail = s.rbTail := rfl
@[simp] theorem memWrite_cmdFull (i : Nat) (v : Byte) : (memWrite s i v).cmdFull = s.cmdFull := rfl
@[simp] theorem memWrite_cmdValue (i : Nat) (v : Byte) : (memWrite s i v).cmdValue = s.cmdValue := rfl
@[simp] theorem memWrite_phase (i : Nat) (v : Byte) : (memWrite s i v).phase = s.phase := rfl
@[simp] theorem memWrite_amp (i : Nat) (v : Byte) : (memWrite s i v).amp = s.amp := rfl
@[simp] theorem memWrite_tickIndex (i : Nat) (v : Byte) : (memWrite s i v).tickIndex = s.tickIndex := rfl
@[simp] theorem memWrite_sineTable (i : Nat) (v : Byte) : (memWrite s i v).sineTable = s.sineTable := rfl
@[simp] theorem memWrite_bridgeState (i : Nat) (v : Byte) : (memWrite s i v).bridgeState = s.bridgeState := rfl
@[simp] theorem memWrite_tmrA (i : Nat) (v : Byte) : (memWrite s i v).tmrA = s.tmrA := rfl
@[simp] theorem memWrite_tmrB (i : Nat) (v : Byte) : (memWrite s i v).tmrB = s.tmrB := rfl
@[simp] theorem memWrite_refused (i : Nat) (v : Byte) : (memWrite s i v).refused = s.refused := rfl
@[simp] theorem memWrite_halted (i : Nat) (v : Byte) : (memWrite s i v).halted = s.halted := rfl
@[simp] theorem memWrite_cfg (i : Nat) (v : Byte) : (memWrite s i v).cfg = s.cfg := rfl
@[simp] theorem memWrite_agenda (i : Nat) (v : Byte) : (memWrite s i v).agenda = s.agenda := rfl
@[simp] theorem memWrite_responses (i : Nat) (v : Byte) : (memWrite s i v).responses = s.responses := rfl
@[simp] theorem memWrite_refusalReason (i : Nat) (v : Byte) : (memWrite s i v).refusalReason = s.refusalReason := rfl
@[simp] theorem memWrite_drawIndex (i : Nat) (v : Byte) : (memWrite s i v).drawIndex = s.drawIndex := rfl

/-! ### `respond` -/

@[simp] theorem respond_rbBuf (g : Agent) (r : Response) : (respond g r s).rbBuf = s.rbBuf := rfl
@[simp] theorem respond_rbHead (g : Agent) (r : Response) : (respond g r s).rbHead = s.rbHead := rfl
@[simp] theorem respond_rbTail (g : Agent) (r : Response) : (respond g r s).rbTail = s.rbTail := rfl
@[simp] theorem respond_cmdFull (g : Agent) (r : Response) : (respond g r s).cmdFull = s.cmdFull := rfl
@[simp] theorem respond_cmdValue (g : Agent) (r : Response) : (respond g r s).cmdValue = s.cmdValue := rfl
@[simp] theorem respond_phase (g : Agent) (r : Response) : (respond g r s).phase = s.phase := rfl
@[simp] theorem respond_amp (g : Agent) (r : Response) : (respond g r s).amp = s.amp := rfl
@[simp] theorem respond_tickIndex (g : Agent) (r : Response) : (respond g r s).tickIndex = s.tickIndex := rfl
@[simp] theorem respond_sineTable (g : Agent) (r : Response) : (respond g r s).sineTable = s.sineTable := rfl
@[simp] theorem respond_bridgeState (g : Agent) (r : Response) : (respond g r s).bridgeState = s.bridgeState := rfl
@[simp] theorem respond_tmrA (g : Agent) (r : Response) : (respond g r s).tmrA = s.tmrA := rfl
@[simp] theorem respond_tmrB (g : Agent) (r : Response) : (respond g r s).tmrB = s.tmrB := rfl
@[simp] theorem respond_refused (g : Agent) (r : Response) : (respond g r s).refused = s.refused := rfl
@[simp] theorem respond_halted (g : Agent) (r : Response) : (respond g r s).halted = s.halted := rfl
@[simp] theorem respond_cfg (g : Agent) (r : Response) : (respond g r s).cfg = s.cfg := rfl
@[simp] theorem respond_agenda (g : Agent) (r : Response) : (respond g r s).agenda = s.agenda := rfl
@[simp] theorem respond_responses (g : Agent) (r : Response) : (respond g r s).responses = (g, r) :: s.responses := rfl
@[simp] theorem respond_refusalReason (g : Agent) (r : Response) : (respond g r s).refusalReason = s.refusalReason := rfl
@[simp] theorem respond_drawIndex (g : Agent) (r : Response) : (respond g r s).drawIndex = s.drawIndex := rfl

/-! ### `refuse` -/

@[simp] theorem refuse_rbBuf (r : RefusalReason) : (refuse r s).rbBuf = s.rbBuf := rfl
@[simp] theorem refuse_rbHead (r : RefusalReason) : (refuse r s).rbHead = s.rbHead := rfl
@[simp] theorem refuse_rbTail (r : RefusalReason) : (refuse r s).rbTail = s.rbTail := rfl
@[simp] theorem refuse_cmdFull (r : RefusalReason) : (refuse r s).cmdFull = s.cmdFull := rfl
@[simp] theorem refuse_cmdValue (r : RefusalReason) : (refuse r s).cmdValue = s.cmdValue := rfl
@[simp] theorem refuse_phase (r : RefusalReason) : (refuse r s).phase = s.phase := rfl
@[simp] theorem refuse_amp (r : RefusalReason) : (refuse r s).amp = s.amp := rfl
@[simp] theorem refuse_tickIndex (r : RefusalReason) : (refuse r s).tickIndex = s.tickIndex := rfl
@[simp] theorem refuse_sineTable (r : RefusalReason) : (refuse r s).sineTable = s.sineTable := rfl
@[simp] theorem refuse_bridgeState (r : RefusalReason) : (refuse r s).bridgeState = s.bridgeState := rfl
@[simp] theorem refuse_tmrA (r : RefusalReason) : (refuse r s).tmrA = s.tmrA := rfl
@[simp] theorem refuse_tmrB (r : RefusalReason) : (refuse r s).tmrB = s.tmrB := rfl
@[simp] theorem refuse_refused (r : RefusalReason) : (refuse r s).refused = true := rfl
@[simp] theorem refuse_halted (r : RefusalReason) : (refuse r s).halted = s.halted := rfl
@[simp] theorem refuse_cfg (r : RefusalReason) : (refuse r s).cfg = s.cfg := rfl
@[simp] theorem refuse_agenda (r : RefusalReason) : (refuse r s).agenda = s.agenda := rfl
@[simp] theorem refuse_responses (r : RefusalReason) : (refuse r s).responses = s.responses := rfl
@[simp] theorem refuse_refusalReason (r : RefusalReason) : (refuse r s).refusalReason = some r := rfl
@[simp] theorem refuse_drawIndex (r : RefusalReason) : (refuse r s).drawIndex = s.drawIndex := rfl

/-! ### `haltBlock` -/

@[simp] theorem haltBlock_rbBuf : (haltBlock s).rbBuf = s.rbBuf := rfl
@[simp] theorem haltBlock_rbHead : (haltBlock s).rbHead = s.rbHead := rfl
@[simp] theorem haltBlock_rbTail : (haltBlock s).rbTail = s.rbTail := rfl
@[simp] theorem haltBlock_cmdFull : (haltBlock s).cmdFull = s.cmdFull := rfl
@[simp] theorem haltBlock_cmdValue : (haltBlock s).cmdValue = s.cmdValue := rfl
@[simp] theorem haltBlock_phase : (haltBlock s).phase = s.phase := rfl
@[simp] theorem haltBlock_amp : (haltBlock s).amp = s.amp := rfl
@[simp] theorem haltBlock_tickIndex : (haltBlock s).tickIndex = s.tickIndex := rfl
@[simp] theorem haltBlock_sineTable : (haltBlock s).sineTable = s.sineTable := rfl
@[simp] theorem haltBlock_bridgeState : (haltBlock s).bridgeState = s.bridgeState := rfl
@[simp] theorem haltBlock_tmrA : (haltBlock s).tmrA = s.tmrA := rfl
@[simp] theorem haltBlock_tmrB : (haltBlock s).tmrB = s.tmrB := rfl
@[simp] theorem haltBlock_refused : (haltBlock s).refused = s.refused := rfl
@[simp] theorem haltBlock_halted : (haltBlock s).halted = true := rfl
@[simp] theorem haltBlock_cfg : (haltBlock s).cfg = s.cfg := rfl
@[simp] theorem haltBlock_agenda : (haltBlock s).agenda = s.agenda := rfl
@[simp] theorem haltBlock_responses : (haltBlock s).responses = s.responses := rfl
@[simp] theorem haltBlock_refusalReason : (haltBlock s).refusalReason = s.refusalReason := rfl
@[simp] theorem haltBlock_drawIndex : (haltBlock s).drawIndex = s.drawIndex := rfl

/-! ### `popAgenda` -/

@[simp] theorem popAgenda_rbBuf : (popAgenda s).rbBuf = s.rbBuf := rfl
@[simp] theorem popAgenda_rbHead : (popAgenda s).rbHead = s.rbHead := rfl
@[simp] theorem popAgenda_rbTail : (popAgenda s).rbTail = s.rbTail := rfl
@[simp] theorem popAgenda_cmdFull : (popAgenda s).cmdFull = s.cmdFull := rfl
@[simp] theorem popAgenda_cmdValue : (popAgenda s).cmdValue = s.cmdValue := rfl
@[simp] theorem popAgenda_phase : (popAgenda s).phase = s.phase := rfl
@[simp] theorem popAgenda_amp : (popAgenda s).amp = s.amp := rfl
@[simp] theorem popAgenda_tickIndex : (popAgenda s).tickIndex = s.tickIndex := rfl
@[simp] theorem popAgenda_sineTable : (popAgenda s).sineTable = s.sineTable := rfl
@[simp] theorem popAgenda_bridgeState : (popAgenda s).bridgeState = s.bridgeState := rfl
@[simp] theorem popAgenda_tmrA : (popAgenda s).tmrA = s.tmrA := rfl
@[simp] theorem popAgenda_tmrB : (popAgenda s).tmrB = s.tmrB := rfl
@[simp] theorem popAgenda_refused : (popAgenda s).refused = s.refused := rfl
@[simp] theorem popAgenda_halted : (popAgenda s).halted = s.halted := rfl
@[simp] theorem popAgenda_cfg : (popAgenda s).cfg = s.cfg := rfl
@[simp] theorem popAgenda_agenda : (popAgenda s).agenda = s.agenda.tail := rfl
@[simp] theorem popAgenda_responses : (popAgenda s).responses = s.responses := rfl
@[simp] theorem popAgenda_refusalReason : (popAgenda s).refusalReason = s.refusalReason := rfl
@[simp] theorem popAgenda_drawIndex : (popAgenda s).drawIndex = s.drawIndex := rfl

/-! ### `placeWord` -/

@[simp] theorem placeWord_rbBuf (w : Word) : (placeWord w s).rbBuf = s.rbBuf := rfl
@[simp] theorem placeWord_rbHead (w : Word) : (placeWord w s).rbHead = s.rbHead := rfl
@[simp] theorem placeWord_rbTail (w : Word) : (placeWord w s).rbTail = s.rbTail := rfl
@[simp] theorem placeWord_cmdFull (w : Word) : (placeWord w s).cmdFull = s.cmdFull := rfl
@[simp] theorem placeWord_cmdValue (w : Word) : (placeWord w s).cmdValue = s.cmdValue := rfl
@[simp] theorem placeWord_phase (w : Word) : (placeWord w s).phase = s.phase := rfl
@[simp] theorem placeWord_amp (w : Word) : (placeWord w s).amp = s.amp := rfl
@[simp] theorem placeWord_tickIndex (w : Word) : (placeWord w s).tickIndex = s.tickIndex := rfl
@[simp] theorem placeWord_sineTable (w : Word) : (placeWord w s).sineTable = s.sineTable := rfl
@[simp] theorem placeWord_bridgeState (w : Word) : (placeWord w s).bridgeState = s.bridgeState := rfl
@[simp] theorem placeWord_tmrA (w : Word) : (placeWord w s).tmrA = s.tmrA := rfl
@[simp] theorem placeWord_tmrB (w : Word) : (placeWord w s).tmrB = s.tmrB := rfl
@[simp] theorem placeWord_refused (w : Word) : (placeWord w s).refused = s.refused := rfl
@[simp] theorem placeWord_halted (w : Word) : (placeWord w s).halted = s.halted := rfl
@[simp] theorem placeWord_cfg (w : Word) : (placeWord w s).cfg = s.cfg := rfl
@[simp] theorem placeWord_agenda (w : Word) : (placeWord w s).agenda = .op (wordIssuer w) w :: s.agenda := rfl
@[simp] theorem placeWord_responses (w : Word) : (placeWord w s).responses = s.responses := rfl
@[simp] theorem placeWord_refusalReason (w : Word) : (placeWord w s).refusalReason = s.refusalReason := rfl
@[simp] theorem placeWord_drawIndex (w : Word) : (placeWord w s).drawIndex = s.drawIndex := rfl

/-! ### `cmdPublish` -/

@[simp] theorem cmdPublish_rbBuf (v : Byte) : (cmdPublish v s).rbBuf = s.rbBuf := rfl
@[simp] theorem cmdPublish_rbHead (v : Byte) : (cmdPublish v s).rbHead = s.rbHead := rfl
@[simp] theorem cmdPublish_rbTail (v : Byte) : (cmdPublish v s).rbTail = s.rbTail := rfl
@[simp] theorem cmdPublish_cmdFull (v : Byte) : (cmdPublish v s).cmdFull = true := rfl
@[simp] theorem cmdPublish_cmdValue (v : Byte) : (cmdPublish v s).cmdValue = v := rfl
@[simp] theorem cmdPublish_phase (v : Byte) : (cmdPublish v s).phase = s.phase := rfl
@[simp] theorem cmdPublish_amp (v : Byte) : (cmdPublish v s).amp = s.amp := rfl
@[simp] theorem cmdPublish_tickIndex (v : Byte) : (cmdPublish v s).tickIndex = s.tickIndex := rfl
@[simp] theorem cmdPublish_sineTable (v : Byte) : (cmdPublish v s).sineTable = s.sineTable := rfl
@[simp] theorem cmdPublish_bridgeState (v : Byte) : (cmdPublish v s).bridgeState = s.bridgeState := rfl
@[simp] theorem cmdPublish_tmrA (v : Byte) : (cmdPublish v s).tmrA = s.tmrA := rfl
@[simp] theorem cmdPublish_tmrB (v : Byte) : (cmdPublish v s).tmrB = s.tmrB := rfl
@[simp] theorem cmdPublish_refused (v : Byte) : (cmdPublish v s).refused = s.refused := rfl
@[simp] theorem cmdPublish_halted (v : Byte) : (cmdPublish v s).halted = s.halted := rfl
@[simp] theorem cmdPublish_cfg (v : Byte) : (cmdPublish v s).cfg = s.cfg := rfl
@[simp] theorem cmdPublish_agenda (v : Byte) : (cmdPublish v s).agenda = s.agenda := rfl
@[simp] theorem cmdPublish_responses (v : Byte) : (cmdPublish v s).responses = s.responses := rfl
@[simp] theorem cmdPublish_refusalReason (v : Byte) : (cmdPublish v s).refusalReason = s.refusalReason := rfl
@[simp] theorem cmdPublish_drawIndex (v : Byte) : (cmdPublish v s).drawIndex = s.drawIndex := rfl

/-! ### `cmdTake` -/

@[simp] theorem cmdTake_rbBuf : (cmdTake s).rbBuf = s.rbBuf := rfl
@[simp] theorem cmdTake_rbHead : (cmdTake s).rbHead = s.rbHead := rfl
@[simp] theorem cmdTake_rbTail : (cmdTake s).rbTail = s.rbTail := rfl
@[simp] theorem cmdTake_cmdFull : (cmdTake s).cmdFull = false := rfl
@[simp] theorem cmdTake_cmdValue : (cmdTake s).cmdValue = s.cmdValue := rfl
@[simp] theorem cmdTake_phase : (cmdTake s).phase = s.phase := rfl
@[simp] theorem cmdTake_amp : (cmdTake s).amp = s.amp := rfl
@[simp] theorem cmdTake_tickIndex : (cmdTake s).tickIndex = s.tickIndex := rfl
@[simp] theorem cmdTake_sineTable : (cmdTake s).sineTable = s.sineTable := rfl
@[simp] theorem cmdTake_bridgeState : (cmdTake s).bridgeState = s.bridgeState := rfl
@[simp] theorem cmdTake_tmrA : (cmdTake s).tmrA = s.tmrA := rfl
@[simp] theorem cmdTake_tmrB : (cmdTake s).tmrB = s.tmrB := rfl
@[simp] theorem cmdTake_refused : (cmdTake s).refused = s.refused := rfl
@[simp] theorem cmdTake_halted : (cmdTake s).halted = s.halted := rfl
@[simp] theorem cmdTake_cfg : (cmdTake s).cfg = s.cfg := rfl
@[simp] theorem cmdTake_agenda : (cmdTake s).agenda = s.agenda := rfl
@[simp] theorem cmdTake_responses : (cmdTake s).responses = s.responses := rfl
@[simp] theorem cmdTake_refusalReason : (cmdTake s).refusalReason = s.refusalReason := rfl
@[simp] theorem cmdTake_drawIndex : (cmdTake s).drawIndex = s.drawIndex := rfl

/-! ### `consume` -/

@[simp] theorem consume_rbBuf (n : Nat) : (consume n s).rbBuf = s.rbBuf := rfl
@[simp] theorem consume_rbHead (n : Nat) : (consume n s).rbHead = s.rbHead := rfl
@[simp] theorem consume_rbTail (n : Nat) : (consume n s).rbTail = (s.rbTail + n) % s.cfg.cap := rfl
@[simp] theorem consume_cmdFull (n : Nat) : (consume n s).cmdFull = s.cmdFull := rfl
@[simp] theorem consume_cmdValue (n : Nat) : (consume n s).cmdValue = s.cmdValue := rfl
@[simp] theorem consume_phase (n : Nat) : (consume n s).phase = s.phase := rfl
@[simp] theorem consume_amp (n : Nat) : (consume n s).amp = s.amp := rfl
@[simp] theorem consume_tickIndex (n : Nat) : (consume n s).tickIndex = s.tickIndex := rfl
@[simp] theorem consume_sineTable (n : Nat) : (consume n s).sineTable = s.sineTable := rfl
@[simp] theorem consume_bridgeState (n : Nat) : (consume n s).bridgeState = s.bridgeState := rfl
@[simp] theorem consume_tmrA (n : Nat) : (consume n s).tmrA = s.tmrA := rfl
@[simp] theorem consume_tmrB (n : Nat) : (consume n s).tmrB = s.tmrB := rfl
@[simp] theorem consume_refused (n : Nat) : (consume n s).refused = s.refused := rfl
@[simp] theorem consume_halted (n : Nat) : (consume n s).halted = s.halted := rfl
@[simp] theorem consume_cfg (n : Nat) : (consume n s).cfg = s.cfg := rfl
@[simp] theorem consume_agenda (n : Nat) : (consume n s).agenda = s.agenda := rfl
@[simp] theorem consume_responses (n : Nat) : (consume n s).responses = s.responses := rfl
@[simp] theorem consume_refusalReason (n : Nat) : (consume n s).refusalReason = s.refusalReason := rfl
@[simp] theorem consume_drawIndex (n : Nat) : (consume n s).drawIndex = s.drawIndex := rfl

/-! ### `initState` -/

@[simp] theorem initState_rbBuf : (initState s).rbBuf = s.rbBuf := rfl
@[simp] theorem initState_rbHead : (initState s).rbHead = 0 := rfl
@[simp] theorem initState_rbTail : (initState s).rbTail = 0 := rfl
@[simp] theorem initState_cmdFull : (initState s).cmdFull = false := rfl
@[simp] theorem initState_cmdValue : (initState s).cmdValue = s.cmdValue := rfl
@[simp] theorem initState_phase : (initState s).phase = .idle := rfl
@[simp] theorem initState_amp : (initState s).amp = 0 := rfl
@[simp] theorem initState_tickIndex : (initState s).tickIndex = 0 := rfl
@[simp] theorem initState_sineTable : (initState s).sineTable = tableEntries s.cfg := rfl
@[simp] theorem initState_bridgeState : (initState s).bridgeState = s.bridgeState := rfl
@[simp] theorem initState_tmrA : (initState s).tmrA = s.tmrA := rfl
@[simp] theorem initState_tmrB : (initState s).tmrB = s.tmrB := rfl
@[simp] theorem initState_refused : (initState s).refused = s.refused := rfl
@[simp] theorem initState_halted : (initState s).halted = s.halted := rfl
@[simp] theorem initState_cfg : (initState s).cfg = s.cfg := rfl
@[simp] theorem initState_agenda : (initState s).agenda = s.agenda := rfl
@[simp] theorem initState_responses : (initState s).responses = s.responses := rfl
@[simp] theorem initState_refusalReason : (initState s).refusalReason = s.refusalReason := rfl
@[simp] theorem initState_drawIndex : (initState s).drawIndex = s.drawIndex := rfl

/-! ### `mapTimer` -/

@[simp] theorem mapTimer_rbBuf (t : TimerId) (f : Timer → Timer) : (mapTimer t f s).rbBuf = s.rbBuf := by
  cases t <;> rfl
@[simp] theorem mapTimer_rbHead (t : TimerId) (f : Timer → Timer) : (mapTimer t f s).rbHead = s.rbHead := by
  cases t <;> rfl
@[simp] theorem mapTimer_rbTail (t : TimerId) (f : Timer → Timer) : (mapTimer t f s).rbTail = s.rbTail := by
  cases t <;> rfl
@[simp] theorem mapTimer_cmdFull (t : TimerId) (f : Timer → Timer) : (mapTimer t f s).cmdFull = s.cmdFull := by
  cases t <;> rfl
@[simp] theorem mapTimer_cmdValue (t : TimerId) (f : Timer → Timer) : (mapTimer t f s).cmdValue = s.cmdValue := by
  cases t <;> rfl
@[simp] theorem mapTimer_phase (t : TimerId) (f : Timer → Timer) : (mapTimer t f s).phase = s.phase := by
  cases t <;> rfl
@[simp] theorem mapTimer_amp (t : TimerId) (f : Timer → Timer) : (mapTimer t f s).amp = s.amp := by
  cases t <;> rfl
@[simp] theorem mapTimer_tickIndex (t : TimerId) (f : Timer → Timer) : (mapTimer t f s).tickIndex = s.tickIndex := by
  cases t <;> rfl
@[simp] theorem mapTimer_sineTable (t : TimerId) (f : Timer → Timer) : (mapTimer t f s).sineTable = s.sineTable := by
  cases t <;> rfl
@[simp] theorem mapTimer_bridgeState (t : TimerId) (f : Timer → Timer) : (mapTimer t f s).bridgeState = s.bridgeState := by
  cases t <;> rfl
@[simp] theorem mapTimer_refused (t : TimerId) (f : Timer → Timer) : (mapTimer t f s).refused = s.refused := by
  cases t <;> rfl
@[simp] theorem mapTimer_halted (t : TimerId) (f : Timer → Timer) : (mapTimer t f s).halted = s.halted := by
  cases t <;> rfl
@[simp] theorem mapTimer_cfg (t : TimerId) (f : Timer → Timer) : (mapTimer t f s).cfg = s.cfg := by
  cases t <;> rfl
@[simp] theorem mapTimer_agenda (t : TimerId) (f : Timer → Timer) : (mapTimer t f s).agenda = s.agenda := by
  cases t <;> rfl
@[simp] theorem mapTimer_responses (t : TimerId) (f : Timer → Timer) : (mapTimer t f s).responses = s.responses := by
  cases t <;> rfl
@[simp] theorem mapTimer_refusalReason (t : TimerId) (f : Timer → Timer) : (mapTimer t f s).refusalReason = s.refusalReason := by
  cases t <;> rfl
@[simp] theorem mapTimer_drawIndex (t : TimerId) (f : Timer → Timer) : (mapTimer t f s).drawIndex = s.drawIndex := by
  cases t <;> rfl

@[simp] theorem mapTimer_tmr (t u : TimerId) (f : Timer → Timer) :
    (mapTimer t f s).tmr u = if u = t then f (s.tmr t) else s.tmr u := by
  cases t <;> cases u <;> rfl

/-! ### `nextDraw` -/

@[simp] theorem nextDraw_rbBuf : (nextDraw s).rbBuf = s.rbBuf := by
  unfold nextDraw; cases s.cfg.dutyRound <;> rfl
@[simp] theorem nextDraw_rbHead : (nextDraw s).rbHead = s.rbHead := by
  unfold nextDraw; cases s.cfg.dutyRound <;> rfl
@[simp] theorem nextDraw_rbTail : (nextDraw s).rbTail = s.rbTail := by
  unfold nextDraw; cases s.cfg.dutyRound <;> rfl
@[simp] theorem nextDraw_cmdFull : (nextDraw s).cmdFull = s.cmdFull := by
  unfold nextDraw; cases s.cfg.dutyRound <;> rfl
@[simp] theorem nextDraw_cmdValue : (nextDraw s).cmdValue = s.cmdValue := by
  unfold nextDraw; cases s.cfg.dutyRound <;> rfl
@[simp] theorem nextDraw_phase : (nextDraw s).phase = s.phase := by
  unfold nextDraw; cases s.cfg.dutyRound <;> rfl
@[simp] theorem nextDraw_amp : (nextDraw s).amp = s.amp := by
  unfold nextDraw; cases s.cfg.dutyRound <;> rfl
@[simp] theorem nextDraw_tickIndex : (nextDraw s).tickIndex = s.tickIndex := by
  unfold nextDraw; cases s.cfg.dutyRound <;> rfl
@[simp] theorem nextDraw_sineTable : (nextDraw s).sineTable = s.sineTable := by
  unfold nextDraw; cases s.cfg.dutyRound <;> rfl
@[simp] theorem nextDraw_bridgeState : (nextDraw s).bridgeState = s.bridgeState := by
  unfold nextDraw; cases s.cfg.dutyRound <;> rfl
@[simp] theorem nextDraw_tmrA : (nextDraw s).tmrA = s.tmrA := by
  unfold nextDraw; cases s.cfg.dutyRound <;> rfl
@[simp] theorem nextDraw_tmrB : (nextDraw s).tmrB = s.tmrB := by
  unfold nextDraw; cases s.cfg.dutyRound <;> rfl
@[simp] theorem nextDraw_refused : (nextDraw s).refused = s.refused := by
  unfold nextDraw; cases s.cfg.dutyRound <;> rfl
@[simp] theorem nextDraw_halted : (nextDraw s).halted = s.halted := by
  unfold nextDraw; cases s.cfg.dutyRound <;> rfl
@[simp] theorem nextDraw_cfg : (nextDraw s).cfg = s.cfg := by
  unfold nextDraw; cases s.cfg.dutyRound <;> rfl
@[simp] theorem nextDraw_agenda : (nextDraw s).agenda = s.agenda := by
  unfold nextDraw; cases s.cfg.dutyRound <;> rfl
@[simp] theorem nextDraw_responses : (nextDraw s).responses = s.responses := by
  unfold nextDraw; cases s.cfg.dutyRound <;> rfl
@[simp] theorem nextDraw_refusalReason : (nextDraw s).refusalReason = s.refusalReason := by
  unfold nextDraw; cases s.cfg.dutyRound <;> rfl

end Sys2Proof.Machine
end

