-- ==== Sys2Proof/Laws/Bridge.lean ====
section
/-! SUPPORT. What the bridge sequences leave in the two timers, the preload write of a tick, and the timer agents'
steps. -/

namespace Sys2Proof.Machine

open Sys2Proof

/-- A timer as BridgeStartSeq leaves it. -/
def Timer.started (x : Timer) : Timer :=
  { x with ccrPre := 0#16, ccrAct := 0#16, cnt := 0#16, cce := true, ccne := true, moe := true, cen := true }

/-- A timer as BridgeStopSeq leaves it. -/
def Timer.stopped (x : Timer) : Timer :=
  { x with moe := false, cen := false, cce := false, ccne := false, cnt := 0#16 }

theorem bridgeStartSeq_eq (s : State) :
    bridgeStartSeq s =
      { s with tmrA := s.tmrA.started, tmrB := s.tmrB.started, bridgeState := .running } := by
  simp only [bridgeStartSeq, runSteps, bridgeStartSteps, List.foldl, forBoth, setCompare, forceLatch, resetCounter,
    enableOutputs, setMoe, startCounter, mapTimer, Timer.started]

theorem bridgeStopSeq_eq (s : State) :
    bridgeStopSeq s =
      { s with tmrA := s.tmrA.stopped, tmrB := s.tmrB.stopped, bridgeState := .stopped } := by
  simp only [bridgeStopSeq, runSteps, bridgeStopSteps, List.foldl, forBoth, setMoe, stopCounter, disableOutputs,
    resetCounter, mapTimer, Timer.stopped]

theorem setCompareBoth_eq (v : Nat) (s : State) :
    setCompareBoth v s =
      { s with
        tmrA := { s.tmrA with ccrPre := BitVec.ofNat 16 v }
        tmrB := { s.tmrB with ccrPre := BitVec.ofNat 16 v } } := rfl

theorem nextDraw_eq (s : State) : nextDraw s = { s with drawIndex := (nextDraw s).drawIndex } := by
  unfold nextDraw
  cases s.cfg.dutyRound <;> rfl

theorem writeDuty_eq (s : State) :
    writeDuty s =
      { s with
        tmrA := { s.tmrA with ccrPre := BitVec.ofNat 16 (currentDuty s) }
        tmrB := { s.tmrB with ccrPre := BitVec.ofNat 16 (currentDuty s) }
        tickIndex := (s.tickIndex + 1) % s.cfg.sineSamples
        drawIndex := (nextDraw s).drawIndex } := by
  unfold writeDuty
  rw [nextDraw_eq]
  rfl

theorem timerUpdate_next {t : TimerId} {s s' : State} (h : timerUpdate t s = .next s') :
    (s.tmr t).cen = true ∧ s' = mapTimer t (fun x => { x with ccrAct := x.ccrPre }) s := by
  unfold timerUpdate at h
  split at h
  · exact ⟨‹_›, by simpa using h.symm⟩
  · cases h

theorem timerCount_next {t : TimerId} {c : Half} {s s' : State} (h : timerCount t c s = .next s') :
    (s.tmr t).cen = true ∧ c.toNat ≤ s.cfg.arr ∧ s' = mapTimer t (fun x => { x with cnt := c }) s := by
  unfold timerCount at h
  split at h
  · rename_i hc
    exact ⟨hc.1, hc.2, by simpa using h.symm⟩
  · cases h

end Sys2Proof.Machine
end

