-- ==== Sys2Proof/Laws/Duty.lean ====
section
/-! SUPPORT. The constraints a valid configuration meets, and the duty of 44_modulator.md R172 as a rounding of the
rational product. -/

namespace Sys2Proof.Machine

open Sys2Proof

/-- The constraints of 00_scope.md R6 that proofs use. -/
theorem Config.ok_bounds {c : Config} (h : c.ok = true) :
    1 ≤ c.sineSamples ∧ 11 ≤ c.cap ∧ c.arr ≤ 0xFFFF ∧ c.sineTable.length = c.sineSamples ∧
      (∀ e ∈ c.sineTable, e ≤ c.arr) ∧ 1 ≤ c.rampTicks := by
  simp only [Sys2Proof.Config.ok, Bool.and_eq_true, decide_eq_true_eq, List.all_eq_true] at h
  exact ⟨h.1.1.1.1.1.1.1, h.1.1.1.1.1.1.2, h.1.1.1.1.1.2, h.1.1.1.1.2, h.1.1.1.2, h.1.1.2⟩

theorem dutyProduct_nonneg (c : Config) (T a : Nat) : 0 ≤ dutyProduct c T a := by
  unfold dutyProduct
  positivity

theorem dutyFloor_eq (c : Config) (T a : Nat) : dutyFloor T a c.rampTicks = ⌊dutyProduct c T a⌋₊ := by
  unfold dutyFloor dutyProduct
  rw [← Nat.cast_mul, Nat.floor_div_eq_div]

theorem dutyCeil_eq (c : Config) (T a : Nat) (hR : 1 ≤ c.rampTicks) :
    dutyCeil T a c.rampTicks = ⌈dutyProduct c T a⌉₊ := by
  unfold dutyCeil dutyProduct
  have hRq : (0 : ℚ) < c.rampTicks := by exact_mod_cast hR
  generalize c.rampTicks = R at *
  have hdm := Nat.div_add_mod (T * a + (R - 1)) R
  have hml := Nat.mod_lt (T * a + (R - 1)) (show 0 < R by omega)
  generalize (T * a + (R - 1)) / R = q at *
  refine le_antisymm (not_lt.mp fun hlt => ?_) (Nat.ceil_le.2 ?_)
  · obtain ⟨q', rfl⟩ : ∃ q', q = q' + 1 := ⟨q - 1, by omega⟩
    have h3 := Nat.ceil_le.1 (Nat.lt_succ_iff.1 hlt)
    rw [div_le_iff₀ hRq] at h3
    have h4 : T * a ≤ q' * R := by exact_mod_cast h3
    rw [Nat.mul_add, Nat.mul_comm R q'] at hdm
    omega
  · rw [div_le_iff₀ hRq]
    have : T * a ≤ q * R := by rw [Nat.mul_comm q R]; omega
    exact_mod_cast this

/-- The duty is a value DUTY_ROUND admits. -/
theorem duty_admitted (c : Config) (k T a : Nat) (hR : 1 ≤ c.rampTicks) : AdmittedDuty c T a (duty c k T a) := by
  unfold duty AdmittedDuty
  cases hd : c.dutyRound
  · left; simp [dutyFloor_eq]
  · simp only
    split
    · right; exact ⟨trivial, dutyCeil_eq _ _ _ hR⟩
    · left; exact dutyFloor_eq _ _ _

theorem dutyFloor_le {T a R : Nat} (h : a ≤ R) : dutyFloor T a R ≤ T :=
  Nat.div_le_of_le_mul (by rw [Nat.mul_comm R]; exact Nat.mul_le_mul_left _ h)

theorem dutyCeil_le {T a R : Nat} (hR : 1 ≤ R) (h : a ≤ R) : dutyCeil T a R ≤ T := by
  unfold dutyCeil
  rw [← Nat.lt_succ_iff, Nat.div_lt_iff_lt_mul (by omega)]
  have : T * a ≤ T * R := Nat.mul_le_mul_left _ h
  rw [Nat.succ_mul]
  omega

/-- The duty is at most its table entry. -/
theorem duty_le (c : Config) (k T a : Nat) (hR : 1 ≤ c.rampTicks) (h : a ≤ c.rampTicks) : duty c k T a ≤ T := by
  unfold duty
  cases c.dutyRound
  · exact dutyFloor_le h
  · simp only
    split
    · exact dutyCeil_le hR h
    · exact dutyFloor_le h

end Sys2Proof.Machine
end

