-- ==== Sys2Proof/Laws/Memory.lean ====
section
/-! SUPPORT. The ring's cells: a read after a write, and that every write keeps the canonical form; the number of
unread bytes without integers. -/

namespace Sys2Proof.Machine

open Sys2Proof

/-! ### Cells -/

theorem Memory.wfFrom_mono {cap lo lo' : Nat} {m : Memory} (h : m.wfFrom cap lo = true) (hl : lo' ≤ lo) :
    m.wfFrom cap lo' = true := by
  cases m with
  | nil => rfl
  | cons c m =>
    simp only [Memory.wfFrom, Bool.and_eq_true, decide_eq_true_eq] at h ⊢
    exact ⟨⟨⟨by omega, h.1.1.2⟩, h.1.2⟩, h.2⟩

theorem Memory.read_below {cap lo i : Nat} {m : Memory} (h : m.wfFrom cap lo = true) (hi : i < lo) :
    m.read i = Memory.unlisted := by
  induction m generalizing lo with
  | nil => rfl
  | cons c m ih =>
    simp only [Memory.wfFrom, Bool.and_eq_true, decide_eq_true_eq] at h
    simp only [Memory.read]
    rw [if_neg (by omega)]
    exact ih h.2 (by omega)

theorem Memory.read_insert {cap lo : Nat} {m : Memory} (h : m.wfFrom cap lo = true) (i j : Nat) (v : Byte) :
    (m.insert i v).read j = if j = i then v else m.read j := by
  induction m generalizing lo with
  | nil => simp only [Memory.insert, Memory.read, eq_comm]
  | cons c m ih =>
    simp only [Memory.wfFrom, Bool.and_eq_true, decide_eq_true_eq] at h
    have ih := ih h.2
    grind [Memory.insert, Memory.read]

theorem Memory.read_erase {cap lo : Nat} {m : Memory} (h : m.wfFrom cap lo = true) (i j : Nat) :
    (m.erase i).read j = if j = i then Memory.unlisted else m.read j := by
  induction m generalizing lo with
  | nil => simp [Memory.erase, Memory.read]
  | cons c m ih =>
    simp only [Memory.wfFrom, Bool.and_eq_true, decide_eq_true_eq] at h
    simp only [Memory.erase]
    by_cases h1 : c.1 = i
    · subst h1
      rw [if_pos rfl]
      by_cases hj : j = c.1
      · subst hj; simp [Memory.read_below h.2 (Nat.lt_succ_self _)]
      · simp [Memory.read, Ne.symm hj, hj]
    · rw [if_neg h1]
      have ih := ih h.2
      grind [Memory.read]

/-- A read after a write gives the value written; a write leaves every other index alone. -/
theorem Memory.read_write {cap : Nat} {m : Memory} (h : m.wf cap = true) (i j : Nat) (v : Byte) :
    (m.write i v).read j = if j = i then v else m.read j := by
  unfold Memory.write
  by_cases hv : v = Memory.unlisted
  · rw [if_pos hv, Memory.read_erase h, hv]
  · rw [if_neg hv, Memory.read_insert h]

theorem Memory.insert_wf {cap lo i : Nat} {v : Byte} {m : Memory} (h : m.wfFrom cap lo = true) (hlo : lo ≤ i)
    (hi : i < cap) (hv : v ≠ Memory.unlisted) : (m.insert i v).wfFrom cap lo = true := by
  induction m generalizing lo with
  | nil => simp [Memory.insert, Memory.wfFrom, hlo, hi, hv]
  | cons c m ih =>
    simp only [Memory.wfFrom, Bool.and_eq_true, decide_eq_true_eq] at h
    simp only [Memory.insert]
    split_ifs with h1 h2
    · simp [Memory.wfFrom, hlo, hi, hv, h]; omega
    · subst h2; simp [Memory.wfFrom, hv, h]
    · simp only [Memory.wfFrom, Bool.and_eq_true, decide_eq_true_eq]
      exact ⟨h.1, ih h.2 (by omega)⟩

theorem Memory.erase_wf {cap lo i : Nat} {m : Memory} (h : m.wfFrom cap lo = true) :
    (m.erase i).wfFrom cap lo = true := by
  induction m generalizing lo with
  | nil => rfl
  | cons c m ih =>
    simp only [Memory.erase]
    split_ifs with h1
    · simp only [Memory.wfFrom, Bool.and_eq_true, decide_eq_true_eq] at h
      exact Memory.wfFrom_mono h.2 (by omega)
    · simp only [Memory.wfFrom, Bool.and_eq_true, decide_eq_true_eq] at h ⊢
      exact ⟨h.1, ih h.2⟩

/-- Every write inside the ring keeps the canonical form. -/
theorem Memory.write_wf {cap i : Nat} {v : Byte} {m : Memory} (h : m.wf cap = true) (hi : i < cap) :
    (m.write i v).wf cap = true := by
  unfold Memory.write
  split_ifs with hv
  · exact Memory.erase_wf h
  · exact Memory.insert_wf h (Nat.zero_le _) hi hv

/-! ### MemRead after MemWrite -/

theorem memRead_memWrite {s : State} (h : s.rbBuf.wf s.cfg.cap = true) (i j : Nat) (v : Byte) :
    memRead (memWrite s i v) j = if j % s.cfg.cap = i % s.cfg.cap then v else memRead s j := by
  simp only [memRead, memWrite_rbBuf, memWrite_cfg, Memory.read_write h]

/-! ### The number of unread bytes -/

theorem avail_of_le {s : State} (h : s.rbTail ≤ s.rbHead) (hh : s.rbHead < s.cfg.cap) :
    avail s = s.rbHead - s.rbTail := by
  unfold avail
  rw [Int.emod_eq_of_lt (by omega) (by omega)]
  omega

theorem avail_of_lt {s : State} (h : s.rbHead < s.rbTail) (ht : s.rbTail < s.cfg.cap) :
    avail s = s.rbHead + s.cfg.cap - s.rbTail := by
  unfold avail
  rw [← Int.add_emod_right, Int.emod_eq_of_lt (by omega) (by omega)]
  omega

theorem avail_lt {s : State} (h : 0 < s.cfg.cap) : avail s < s.cfg.cap := by
  unfold avail
  have := Int.emod_lt_of_pos ((s.rbHead : Int) - s.rbTail) (b := (s.cfg.cap : Int)) (by omega)
  have := Int.emod_nonneg ((s.rbHead : Int) - s.rbTail) (b := (s.cfg.cap : Int)) (by omega)
  omega

/-- The head lies `avail` slots after the tail. -/
theorem head_eq_tail_add_avail {s : State} (hh : s.rbHead < s.cfg.cap) (ht : s.rbTail < s.cfg.cap) :
    s.rbHead = (s.rbTail + avail s) % s.cfg.cap := by
  rcases Nat.lt_or_ge s.rbHead s.rbTail with h | h
  · rw [avail_of_lt h ht, show s.rbTail + (s.rbHead + s.cfg.cap - s.rbTail) = s.rbHead + s.cfg.cap by omega,
      Nat.add_mod_right, Nat.mod_eq_of_lt hh]
  · rw [avail_of_le h hh, show s.rbTail + (s.rbHead - s.rbTail) = s.rbHead by omega, Nat.mod_eq_of_lt hh]

/-- A head that lies `n < CAP` slots after the tail leaves `n` bytes unread. -/
theorem avail_eq_of_head {s : State} {n : Nat} (hn : n < s.cfg.cap)
    (h : s.rbHead = (s.rbTail + n) % s.cfg.cap) : avail s = n := by
  unfold avail
  rw [h]
  push_cast
  rw [Int.emod_sub_emod, show ((s.rbTail : Int) + n - s.rbTail) = n by ring,
    Int.emod_eq_of_lt (by omega) (by omega)]
  rfl

end Sys2Proof.Machine
end

