-- ==== Sys2Proof/Laws/Ramp.lean ====
section
/-! SUPPORT. Everything the ramp's macros can do, as case lemmas. -/

namespace Sys2Proof.Machine

open Sys2Proof

/-- RampStart either begins a soft start or changes nothing. -/
theorem rampStart_cases (s : State) :
    ((s.phase = .idle ∨ s.phase = .stopping ∧ s.cfg.startWhileStopping = .restart) ∧
        rampStart s = { s with phase := .starting, amp := 0 }) ∨
      ((s.phase = .starting ∨ s.phase = .running ∨
          s.phase = .stopping ∧ s.cfg.startWhileStopping = .ignore) ∧ rampStart s = s) := by
  unfold rampStart
  cases s.phase <;> simp
  cases s.cfg.startWhileStopping <;> simp

/-- RampStop either begins a soft stop or changes nothing. -/
theorem rampStop_cases (s : State) :
    ((s.phase = .starting ∨ s.phase = .running) ∧ rampStop s = { s with phase := .stopping }) ∨
      ((s.phase = .idle ∨ s.phase = .stopping) ∧ rampStop s = s) := by
  unfold rampStop
  cases s.phase <;> simp

theorem advance_idle {s : State} (h : s.phase = .idle) : advance s = (s, false) := if_pos h

/-- Advance upwards: one count more, clamped at R. -/
theorem advance_up {s : State} (h : s.phase = .starting ∨ s.phase = .running) :
    advance s =
      if s.cfg.rampTicks ≤ s.amp + 1 then ({ s with amp := s.cfg.rampTicks, phase := .running }, false)
      else ({ s with amp := s.amp + 1 }, false) := by
  have hi : s.phase ≠ .idle := by rcases h with h | h <;> simp [h]
  have hr : rampStep s.phase = 1 := by rcases h with h | h <;> simp [h, rampStep]
  simp only [advance, if_neg hi, hr]
  by_cases hR : s.cfg.rampTicks ≤ s.amp + 1
  · rw [if_pos hR, if_pos (by omega)]
  · rw [if_neg hR, if_neg (by omega), if_neg (by omega)]
    rfl

/-- Advance downwards: one count less; at 0 the bridge is stopped and the phase is Idle. -/
theorem advance_down {s : State} (h : s.phase = .stopping) :
    advance s =
      if s.cfg.rampTicks + 1 ≤ s.amp then ({ s with amp := s.cfg.rampTicks, phase := .running }, false)
      else if s.amp ≤ 1 then (bridgeStopSeq { s with amp := 0, phase := .idle }, true)
      else ({ s with amp := s.amp - 1 }, false) := by
  have hi : s.phase ≠ .idle := by simp [h]
  have hr : rampStep s.phase = -1 := by simp [h, rampStep]
  simp only [advance, if_neg hi, hr]
  by_cases h1 : s.cfg.rampTicks + 1 ≤ s.amp
  · rw [if_pos h1, if_pos (by omega)]
  · rw [if_neg h1]
    by_cases h2 : s.amp ≤ 1
    · rw [if_pos h2, if_neg (by omega), if_pos (by omega)]
    · rw [if_neg h2, if_neg (by omega), if_neg (by omega)]
      congr
      omega

/-- The fields Advance can change: the ramp's, and, when it reaches Idle, those of BridgeStopSeq. -/
theorem advance_keeps (s : State) :
    ∃ p a b ta tb,
      advance s = ({ s with phase := p, amp := a, bridgeState := b, tmrA := ta, tmrB := tb }, (advance s).2) ∧
      (ta = s.tmrA ∧ tb = s.tmrB ∧ b = s.bridgeState ∧ (advance s).2 = false ∨
        ta = s.tmrA.stopped ∧ tb = s.tmrB.stopped ∧ b = .stopped ∧ p = .idle ∧ a = 0 ∧ (advance s).2 = true) := by
  unfold advance
  split
  · exact ⟨_, _, _, _, _, rfl, .inl ⟨rfl, rfl, rfl, rfl⟩⟩
  · dsimp only
    split
    · exact ⟨_, _, _, _, _, rfl, .inl ⟨rfl, rfl, rfl, rfl⟩⟩
    · split
      · refine ⟨.idle, 0, .stopped, _, _, ?_, .inr ⟨rfl, rfl, rfl, rfl, rfl, rfl⟩⟩
        rw [bridgeStopSeq_eq]
      · exact ⟨_, _, _, _, _, rfl, .inl ⟨rfl, rfl, rfl, rfl⟩⟩

end Sys2Proof.Machine
end

