-- ==== Sys2Proof/Laws/Meaning.lean ====
section
/-! SUPPORT. What DECODE and TICK do case by case. -/

namespace Sys2Proof.Machine

open Sys2Proof

/-! ### DECODE -/

theorem windowPayload_length (s : State) : (windowPayload s).length = 9 := by
  simp [windowPayload, unreadBytes]

theorem windowPayload_eq (s : State) :
    windowPayload s =
      [unreadByte s 0, unreadByte s 1, unreadByte s 2, unreadByte s 3, unreadByte s 4, unreadByte s 5,
        unreadByte s 6, unreadByte s 7, unreadByte s 8] := rfl

theorem execDecode_underrun {s : State} (h : avail s < 10) :
    execDecode s = .next (respond .task .noframe s) := if_pos h

theorem execDecode_frame {s : State} (h : 10 ≤ avail s) (hv : windowValid s = true) :
    execDecode s = .next (respond .task (.frame (windowPayload s))
      (cmdPublish (unreadByte s 0) (consume 10 s))) := by
  unfold execDecode
  rw [if_neg (Nat.not_lt.mpr h), if_pos hv]

theorem execDecode_resync {s : State} (h : 10 ≤ avail s) (hv : windowValid s = false) :
    execDecode s = .next (respond .task .noframe (consume 1 s)) := by
  unfold execDecode
  rw [if_neg (Nat.not_lt.mpr h), if_neg (by simp [hv])]

/-! ### TICK -/

theorem execTick_idle {s : State} (h : s.phase = .idle) : execTick s = .next (respond .tick .ack s) := if_pos h

theorem execTick_stops {s s1 : State} (h : s.phase ≠ .idle) (ha : advance s = (s1, true)) :
    execTick s = .next (respond .tick .ack s1) := by
  unfold execTick
  rw [if_neg h, ha]

theorem execTick_writes {s s1 : State} (h : s.phase ≠ .idle) (ha : advance s = (s1, false)) :
    execTick s = .next (respond .tick .ack (writeDuty s1)) := by
  unfold execTick
  rw [if_neg h, ha]

/-- A tick of a soft start or a steady run. -/
theorem execTick_up {s : State} (h : s.phase = .starting ∨ s.phase = .running) :
    execTick s = .next (respond .tick .ack (writeDuty
      (if s.cfg.rampTicks ≤ s.amp + 1 then { s with amp := s.cfg.rampTicks, phase := .running }
        else { s with amp := s.amp + 1 }))) := by
  have hi : s.phase ≠ .idle := by rcases h with h | h <;> simp [h]
  refine execTick_writes hi ?_
  rw [advance_up h]
  split <;> rfl

/-- The last tick of a soft stop. -/
theorem execTick_last {s : State} (h : s.phase = .stopping) (hR : 1 ≤ s.cfg.rampTicks) (ha : s.amp ≤ 1) :
    execTick s = .next (respond .tick .ack (bridgeStopSeq { s with amp := 0, phase := .idle })) := by
  refine execTick_stops (by simp [h]) ?_
  rw [advance_down h, if_neg (by omega), if_pos ha]

/-- A tick of a soft stop before the last. -/
theorem execTick_down {s : State} (h : s.phase = .stopping) (hR : s.amp ≤ s.cfg.rampTicks) (ha : 1 < s.amp) :
    execTick s = .next (respond .tick .ack (writeDuty { s with amp := s.amp - 1 })) := by
  refine execTick_writes (by simp [h]) ?_
  rw [advance_down h, if_neg (by omega), if_neg (by omega)]

/-- The fields a tick can change, whatever the state. -/
theorem execTick_keeps (s : State) :
    ∃ p a b ta tb k d,
      execTick s = .next
        { s with
          phase := p, amp := a, bridgeState := b, tmrA := ta, tmrB := tb, tickIndex := k, drawIndex := d,
          responses := (.tick, .ack) :: s.responses } ∧
      ta.arr = s.tmrA.arr ∧ tb.arr = s.tmrB.arr ∧ ta.ccrAct = s.tmrA.ccrAct ∧ tb.ccrAct = s.tmrB.ccrAct := by
  by_cases h : s.phase = .idle
  · rw [execTick_idle h]
    exact ⟨s.phase, s.amp, s.bridgeState, s.tmrA, s.tmrB, s.tickIndex, s.drawIndex, rfl, rfl, rfl, rfl, rfl⟩
  · obtain ⟨p, a, b, ta, tb, he, ⟨rfl, rfl, rfl, h4⟩ | ⟨rfl, rfl, rfl, _, _, h6⟩⟩ := advance_keeps s
    · rw [h4] at he
      rw [execTick_writes h he, writeDuty_eq]
      exact ⟨_, _, _, _, _, _, _, rfl, rfl, rfl, rfl, rfl⟩
    · rw [h6] at he
      rw [execTick_stops h he]
      exact ⟨_, _, _, _, _, _, _, rfl, rfl, rfl, rfl, rfl⟩

end Sys2Proof.Machine
end

