-- ==== Sys2Proof/Laws/Step.lean ====
section
/-! SUPPORT. Everything a step can do, and runs of several steps. -/

namespace Sys2Proof.Machine

open Sys2Proof

/-- A live block takes the next step of its agenda. -/
theorem step_live {s : State} (h : s.live = true) : step s = takeNext s := by
  simp only [State.live, Bool.and_eq_true, Bool.not_eq_true'] at h
  simp [step, h.1.1, h.1.2, h.2]

theorem step_entry {s : State} {e : Event} {rest : List Event} (h : s.live = true) (ha : s.agenda = e :: rest) :
    step s = takeEvent e { s with agenda := rest } := by
  rw [step_live h, takeNext, ha]
  simp [popAgenda, ha]

/-- If a step answers a next state, the block was live, and it idled or took the first entry of its agenda. -/
theorem step_next {s t : State} (h : step s = .next t) :
    s.live = true ∧
      ((s.agenda = [] ∧ t = s) ∨
        ∃ e rest, s.agenda = e :: rest ∧ takeEvent e { s with agenda := rest } = .next t) := by
  have hl : s.live = true := by
    unfold step at h
    split at h; · cases h
    split at h; · cases h
    split at h; · cases h
    rename_i h1 h2 h3
    simp [State.live, h2, h3]
    simpa using h1
  refine ⟨hl, ?_⟩
  rw [step_live hl, takeNext] at h
  split at h
  · exact .inl ⟨‹_›, by simpa using h.symm⟩
  · rename_i e rest ha
    refine .inr ⟨e, rest, ha, ?_⟩
    simpa [popAgenda, ha] using h

/-- What taking an entry can answer: a refused word, an operation run, a timer's step, or the halt. -/
theorem takeEvent_next {e : Event} {s t : State} (h : takeEvent e s = .next t) :
    (∃ r, t = refuse r s) ∨
      (∃ g w i, e = .op g w ∧ decode w = .op i ∧ i.owner = g ∧ exec i s = .next t) ∨
      (∃ u, e = .update u ∧ timerUpdate u s = .next t) ∨
      (∃ u c, e = .count u c ∧ timerCount u c s = .next t) ∨
      (e = .halt ∧ t = haltBlock s) := by
  cases e with
  | op g w =>
    simp only [takeEvent, issue] at h
    split at h
    · exact .inl ⟨_, by simpa using h.symm⟩
    · rename_i i hd
      split at h
      · exact .inr (.inl ⟨g, w, i, rfl, hd, ‹_›, h⟩)
      · exact .inl ⟨_, by simpa using h.symm⟩
  | update u => exact .inr (.inr (.inl ⟨u, rfl, h⟩))
  | count u c => exact .inr (.inr (.inr (.inl ⟨u, c, rfl, h⟩)))
  | halt => exact .inr (.inr (.inr (.inr ⟨rfl, by simpa [takeEvent] using h.symm⟩)))

/-! ### Runs -/

theorem run_zero (s : State) : Sys2Proof.core.run 0 s = .next s := rfl

theorem coreRun_succ (M : Host.Core) (n : Nat) (s s' : M.State) (h : M.step s = .next s') :
    M.run (n + 1) s = M.run n s' := by
  rw [Host.Core.run, h]

theorem coreRun_succ_next (M : Host.Core) (n : Nat) (s t : M.State) (h : M.run (n + 1) s = .next t) :
    ∃ s', M.step s = .next s' ∧ M.run n s' = .next t := by
  rw [Host.Core.run] at h
  split at h
  · exact ⟨_, ‹_›, h⟩
  · cases h
  · cases h

theorem run_succ {s t : State} (h : step s = .next t) (n : Nat) :
    Sys2Proof.core.run (n + 1) s = Sys2Proof.core.run n t :=
  coreRun_succ Sys2Proof.core n s t h

/-- A run of `n + 1` steps takes one step and runs on. -/
theorem run_succ_next {s t : State} {n : Nat} (h : Sys2Proof.core.run (n + 1) s = .next t) :
    ∃ s', step s = .next s' ∧ Sys2Proof.core.run n s' = .next t :=
  coreRun_succ_next Sys2Proof.core n s t h

/-- A property that every step keeps holds at the end of every run. -/
theorem run_keeps {P : State → Prop} (hP : ∀ s t, P s → step s = .next t → P t) {n : Nat} {s t : State}
    (hs : P s) (h : Sys2Proof.core.run n s = .next t) : P t := by
  induction n generalizing s with
  | zero => rw [run_zero] at h; cases h; exact hs
  | succ n ih =>
    obtain ⟨s', h1, h2⟩ := run_succ_next h
    exact ih (hP _ _ hs h1) h2

theorem run_add {s t : State} {m n : Nat} (h : Sys2Proof.core.run m s = .next t) :
    Sys2Proof.core.run (m + n) s = Sys2Proof.core.run n t := by
  induction m generalizing s with
  | zero => rw [run_zero] at h; cases h; rw [Nat.zero_add]
  | succ m ih =>
    obtain ⟨s', h1, h2⟩ := run_succ_next h
    rw [Nat.add_right_comm, run_succ h1]
    exact ih h2

end Sys2Proof.Machine
end

