-- ==== Sys2Proof/Laws/Invariant.lean ====
section
/-! SUPPORT. What the invariant says nothing about may change freely; what it gives for a tick and for a timer's step;
liveness and unread bytes across an update. -/

namespace Sys2Proof.Machine

open Sys2Proof

/-- The invariant looks neither at the command slot nor at the model's own fields. -/
theorem Inv.congr {s t : State} (h : Inv s)
    (e : t = { s with
      cmdFull := t.cmdFull, cmdValue := t.cmdValue, refused := t.refused, halted := t.halted, agenda := t.agenda,
      responses := t.responses, refusalReason := t.refusalReason, drawIndex := t.drawIndex }) : Inv t := by
  have htmr : ∀ u, t.tmr u = s.tmr u := by rw [e]; intro u; cases u <;> rfl
  rw [e] at htmr ⊢
  obtain ⟨h1, ⟨i1, i2, i3, i4⟩, h3, ⟨b1, b2, b3⟩, ⟨a1, a2, a3, a4⟩, h6, h7, h8⟩ := h
  exact ⟨h1, ⟨i1, i2, i3, i4⟩, h3, ⟨b1, fun h u => htmr u ▸ b2 h u, fun h u => htmr u ▸ b3 h u⟩, ⟨a1, a2, a3, a4⟩,
    fun u => htmr u ▸ h6 u, fun u => htmr u ▸ h7 u,
    fun h => ⟨(h8 h).same, (h8 h).pre, fun u => htmr u ▸ (h8 h).act u⟩⟩

/-- Away from Idle the bridge runs. -/
theorem PhaseMatchesBridge.runs {s : State} (h : PhaseMatchesBridge s) (hp : s.phase ≠ .idle) :
    s.bridgeState = .running := by
  cases hb : s.bridgeState
  · exact absurd (h.idleIff.2 hb) hp
  · rfl

/-- The table has the entry a tick reads, and it is at most ARR. -/
theorem Inv.entry {s : State} (h : Inv s) :
    ∃ T : Half, s.sineTable[s.tickIndex]? = some T ∧ T.toNat ≤ s.cfg.arr := by
  obtain ⟨_, _, harr, hlen, hall, _⟩ := Config.ok_bounds h.config
  have ht := h.indices.tick
  have hl : s.sineTable.length = s.cfg.sineSamples := by rw [h.table]; simp [tableEntries, hlen]
  have key : ∀ e ∈ s.sineTable, e.toNat ≤ s.cfg.arr := by
    rw [h.table]
    intro e he
    simp only [tableEntries, List.mem_map] at he
    obtain ⟨x, hx, rfl⟩ := he
    have := hall x hx
    simp only [BitVec.toNat_ofNat]
    omega
  exact ⟨s.sineTable[s.tickIndex]'(by omega), by rw [List.getElem?_eq_getElem], key _ (List.getElem_mem _)⟩

/-- Both compare preloads are bounded once one is. -/
theorem ComparesBounded.pre_le {s : State} (h : ComparesBounded s) (u : TimerId) :
    (s.tmr u).ccrPre.toNat ≤ s.cfg.arr := by
  cases u
  · exact h.pre
  · exact h.same ▸ h.pre

/-- Liveness looks at the configuration and the two model bits alone. -/
theorem State.live_congr {s t : State} (h : s.live = true) (h1 : t.cfg = s.cfg) (h2 : t.halted = s.halted)
    (h3 : t.refused = s.refused) : t.live = true := by
  simp only [State.live] at *
  rw [h1, h2, h3]
  exact h

/-- Consuming `n` of the unread bytes leaves the others. -/
theorem avail_consume {s t : State} {n : Nat} (hi : IndicesInRange s) (hn : n ≤ avail s) (h1 : t.rbHead = s.rbHead)
    (h2 : t.rbTail = (s.rbTail + n) % s.cfg.cap) (h3 : t.cfg = s.cfg) : avail t = avail s - n := by
  have hlt := avail_lt (s := s) (Nat.lt_of_le_of_lt (Nat.zero_le _) hi.head)
  apply avail_eq_of_head
  · rw [h3]; omega
  · rw [h1, h2, h3, Nat.mod_add_mod, head_eq_tail_add_avail hi.head hi.tail]
    congr 1
    omega

end Sys2Proof.Machine
end

