-- ==== Sys2Proof/Laws/PerInstr.lean ====
section
/-! SUPPORT. The family TableRow: each instruction, as syntax, is well formed and its word lies in its own row of the
opcode map (30_encoding.md R72 to R74). -/

namespace Sys2Proof.Laws.TableRow

open Sys2Proof

/-- The word of `i` selects the row of `i`, its reserved bits are zero, and its fields are those of `i`. -/
def Statement (i : Instr) : Prop :=
  i.wf = true ∧ encode i &&& i.maskBits = i.matchBits ∧ rsvField (encode i) = 0#4 ∧ immField (encode i) = i.imm ∧
    opField (encode i) = i.opcode

theorem init : Statement .init := by unfold Statement; decide
theorem byteRx (d : Byte) : Statement (.byteRx d) := by revert d; unfold Statement; decide
theorem decode : Statement .decode := by unfold Statement; decide
theorem cmdRead : Statement .cmdRead := by unfold Statement; decide
theorem start : Statement .start := by unfold Statement; decide
theorem stop : Statement .stop := by unfold Statement; decide
theorem tick : Statement .tick := by unfold Statement; decide

end Sys2Proof.Laws.TableRow
end

