-- ==== Sys2Proof/Tests/Slice0.lean ====
section
/-! SUPPORT. Tests: the checks on terms, decoding from written-out words, one or two steps of each operation against
95_test_vectors.md, the reading of program lines, and a witness for every statement with hypotheses. -/

namespace Sys2Proof.Tests

open Sys2Proof Sys2Proof.Machine

/- One theorem at a time: many at once take one thread and its stack each. -/
set_option Elab.async false

/-- Configuration K1 of 95_test_vectors.md section 0. -/
def k1 : Config where
  sineSamples := 4
  cap := 16
  arr := 100
  sineTable := [50, 100, 50, 0]
  rampTicks := 4
  sineFreqHz := 50
  softMs := 20
  startWhileStopping := .restart
  dutyRound := .floor

/-- K1i. -/
def k1i : Config := { k1 with startWhileStopping := .ignore }

/-- K1a. -/
def k1a : Config := { k1 with dutyRound := .anyNeighbour }

/-- K2. -/
def k2 : Config := { k1 with cap := 128 }

/-- K3. -/
def k3 : Config := { k1 with rampTicks := 1 }

/-- K4. -/
def k4 : Config := { k1 with sineSamples := 1, sineTable := [100], rampTicks := 2 }

/-- The reset state of K1 with all unspecified values 0. -/
def s0 : State := State.launch k1 Launch.zero

/-- A timer with its outputs on, counting. -/
def onTimer (pre act : Half) : Timer where
  cnt := 7#16
  ccrPre := pre
  ccrAct := act
  arr := 100#16
  cen := true
  cce := true
  ccne := true
  moe := true

/-- A state of configuration `c` with the bridge running. -/
def driving (c : Config) (p : Phase) (a i : Nat) : State :=
  { State.launch c Launch.zero with
    phase := p, amp := a, tickIndex := i, bridgeState := .running, tmrA := onTimer 12#16 12#16,
    tmrB := onTimer 12#16 12#16 }

/-- A state of configuration `c` whose ring holds `m`. -/
def ringed (c : Config) (m : Memory) (head tail : Nat) : State :=
  { State.launch c Launch.zero with rbBuf := m, rbHead := head, rbTail := tail }

/-- One value of the next state, if there is one. -/
def get (f : State → α) : Host.Outcome State Fault Refusal → Option α
  | .next s => some (f s)
  | .fault _ => none
  | .refused _ => none

/-- The newest response. -/
def answer (s : State) : Option (Agent × Response) := s.responses.head?

/-! ### WellFormed: an ill-formed term for each check -/

theorem test_ok_configurations :
    k1.ok = true ∧ k1i.ok = true ∧ k1a.ok = true ∧ k2.ok = true ∧ k3.ok = true ∧ k4.ok = true := by
  decide +kernel

theorem test_no_samples : ({ k1 with sineSamples := 0, sineTable := [] } : Config).ok = false := by decide +kernel
theorem test_ring_too_small : ({ k1 with cap := 10 } : Config).ok = false := by decide +kernel
theorem test_smallest_ring : ({ k1 with cap := 11 } : Config).ok = true := by decide +kernel
theorem test_arr_too_wide : ({ k1 with arr := 65536 } : Config).ok = false := by decide +kernel
theorem test_table_too_short : ({ k1 with sineTable := [50, 100, 50] } : Config).ok = false := by decide +kernel
theorem test_entry_above_arr : ({ k1 with sineTable := [50, 101, 50, 0] } : Config).ok = false := by decide +kernel
theorem test_no_ramp : ({ k1 with rampTicks := 0 } : Config).ok = false := by decide +kernel
theorem test_no_frequency : ({ k1 with sineFreqHz := 0 } : Config).ok = false := by decide +kernel
theorem test_negative_ramp_time : ({ k1 with softMs := -1 } : Config).ok = false := by decide +kernel
theorem test_short_frame_response : (Response.frame [1#8]).wf = false := by decide
theorem test_empty_bytes_line : (Line.bytes []).wf = false := by decide
theorem test_short_frame_line : (Line.frame [1#8]).wf = false := by decide
theorem test_short_badframe_line : (Line.badFrame 1#8 [1#8]).wf = false := by decide
theorem test_badframe_mask_zero : (Line.badFrame 0#8 (List.replicate 9 1#8)).wf = false := by decide
theorem test_launch_counter_above_arr : ({ Launch.zero with cntA := 101#16 } : Launch).ok k1 = false := by decide
theorem test_launch_counter_b_above_arr : ({ Launch.zero with cntB := 101#16 } : Launch).ok k1 = false := by decide
theorem test_launch_cell_outside_ring : ({ Launch.zero with rbBuf := [(16, 1#8)] } : Launch).ok k1 = false := by decide
theorem test_ring_cell_listed_as_unlisted : Memory.wf 16 [(3, 0#8)] = false := by decide
theorem test_ring_cells_out_of_order : Memory.wf 16 [(3, 1#8), (2, 1#8)] = false := by decide
theorem test_reset_memory_wf : State.reset.rbBuf.wf State.reset.cfg.cap = true := by decide

/-! ### Decoding, from words written out by the fields of 30_encoding.md R71 and R74 -/

theorem test_decode_init : decode 0b0001_0000_00000000#16 = .op .init := by decide
theorem test_decode_byteRx : decode 0b0010_0000_00001010#16 = .op (.byteRx 10#8) := by decide
theorem test_decode_decode : decode 0b0011_0000_00000000#16 = .op .decode := by decide
theorem test_decode_cmdRead : decode 0b0100_0000_00000000#16 = .op .cmdRead := by decide
theorem test_decode_start : decode 0b0101_0000_00000000#16 = .op .start := by decide
theorem test_decode_stop : decode 0b0110_0000_00000000#16 = .op .stop := by decide
theorem test_decode_tick : decode 0b0111_0000_00000000#16 = .op .tick := by decide
theorem test_decode_all_zero : decode 0x0000#16 = .invalid .reservedOpcode := by decide
theorem test_decode_opcode_8 : decode 0x8000#16 = .invalid .reservedOpcode := by decide
theorem test_decode_rsv_before_agent : decode 0x7100#16 = .invalid .reservedBits := by decide
theorem test_decode_imm_of_format_n : decode 0x1001#16 = .invalid .reservedBits := by decide
theorem test_encode_byteRx : encode (.byteRx 0xFF#8) = 0x20FF#16 := by decide
theorem test_encode_stop : encode .stop = 0x6000#16 := by decide
theorem test_table_word_too_long : decodeTableWord 16 0x12000 = none := by decide
theorem test_table_word_widths : decodeTableWord 15 0x5000 = some .start ∧ decodeTableWord 17 0x5000 = none := by decide
theorem test_table_word : decodeTableWord 16 0x2041 = some (.byteRx 0x41#8) := by decide
theorem test_first_word_runs :
    get State.bridgeState (step (State.reset.withFetchWord 16 0x5000)) = some .running := by decide +kernel

/-! ### Who may issue what (95_test_vectors.md 2.1) -/

theorem test_start_from_tick :
    get (fun s => (s.refused, s.refusalReason, s.responses)) (issue .tick 0x5000#16 s0)
      = some (true, some .wrongAgent, []) := by decide
theorem test_byteRx_from_task : get State.refusalReason (issue .task 0x2041#16 s0) = some (some .wrongAgent) := by
  decide
theorem test_bits_before_agent : get State.refusalReason (issue .task 0x7100#16 s0) = some (some .reservedBits) := by
  decide
theorem test_init_while_running :
    get State.refusalReason (issue .task 0x1000#16 (driving k1 .running 4 0)) = some (some .initWhileRunning) := by
  decide

/-! ### One step of each operation (95_test_vectors.md 2.2 to 2.8) -/

theorem test_init_clears :
    get (fun s => (s.rbHead, s.rbTail, s.cmdFull, s.cmdValue, s.tickIndex))
      (execInit
        { ringed k1 [] 7 2 with cmdFull := true, cmdValue := 9#8, tickIndex := 3 })
      = some (0, 0, false, 9#8, 0) := by decide

theorem test_byteRx_wraps :
    get (fun s => (memRead s 15, s.rbHead, avail s)) (execByteRx 0xA5#8 (ringed k1 [] 15 3))
      = some (0xA5#8, 0, 13) := by decide
theorem test_byteRx_overrun :
    get (fun s => (memRead s 14, s.rbHead, s.rbTail, avail s)) (execByteRx 0x10#8 (ringed k1 [] 14 15))
      = some (0x10#8, 15, 15, 0) := by decide

/-- FRAME 10, …, 90 in slots 12 to 15 and 0 to 5 of a ring of 16. -/
def wrapped : State :=
  ringed k1 [(0, 50#8), (1, 60#8), (2, 70#8), (3, 80#8), (4, 90#8), (5, 0x3F#8), (12, 10#8), (13, 20#8), (14, 30#8),
    (15, 40#8)] 6 12

theorem test_decode_wrapped :
    get (fun s => (s.rbTail, avail s, s.cmdValue, answer s)) (execDecode wrapped)
      = some (6, 0, 10#8, some (.task, .frame [10#8, 20#8, 30#8, 40#8, 50#8, 60#8, 70#8, 80#8, 90#8])) := by
  decide

/-- Ten bytes 1 from slot 15 on in a ring of 16: no frame. -/
def mismatched : State :=
  ringed k1 [(0, 1#8), (1, 1#8), (2, 1#8), (3, 1#8), (4, 1#8), (5, 1#8), (6, 1#8), (7, 1#8), (8, 1#8), (15, 1#8)] 9 15

theorem test_decode_mismatch :
    get (fun s => (s.rbTail, avail s, s.cmdFull, answer s)) (execDecode mismatched)
      = some (0, 9, false, some (.task, .noframe)) := by decide

theorem test_cmdRead_value :
    get (fun s => (s.cmdFull, s.cmdValue, answer s)) (execCmdRead { s0 with cmdFull := true, cmdValue := 10#8 })
      = some (false, 10#8, some (.task, .value 10#8)) := by decide
theorem test_cmdRead_empty :
    get (fun s => (s.cmdFull, s.cmdValue, answer s)) (execCmdRead { s0 with cmdValue := 10#8 })
      = some (false, 10#8, some (.task, .empty)) := by decide

theorem test_start_from_idle :
    get (fun s => (s.phase, s.amp, s.bridgeState, s.tmrB, outMainEn s .A))
      (execStart (State.launch k1
        { Launch.zero with
          cntA := 0x42#16, ccrPreA := 0x1234#16, ccrActA := 0x1234#16, cntB := 0x42#16, ccrPreB := 0x1234#16,
          ccrActB := 0x1234#16 }))
      = some (.starting, 0, .running,
          { cnt := 0#16, ccrPre := 0#16, ccrAct := 0#16, arr := 100#16, cen := true, cce := true, ccne := true,
            moe := true }, true) := by decide
theorem test_start_while_stopping :
    get (fun s => (s.phase, s.amp, s.bridgeState, s.tmrA.cnt)) (execStart (driving k1 .stopping 3 0))
      = some (.starting, 0, .running, 7#16) ∧
    get (fun s => (s.phase, s.amp)) (execStart (driving k1i .stopping 2 0)) = some (.stopping, 2) := by decide

theorem test_stop_from_running :
    get (fun s => (s.phase, s.amp, s.bridgeState, s.tmrA)) (execStop (driving k1 .running 4 0))
      = some (.stopping, 4, .running, onTimer 12#16 12#16) := by decide
theorem test_stop_from_idle : get (fun s => (s.phase, s.amp)) (execStop s0) = some (.idle, 0) := by decide

theorem test_tick_starting :
    get (fun s => (s.amp, s.tickIndex, s.tmrA.ccrPre, s.tmrB.ccrPre, s.tmrA.ccrAct))
      (execTick (driving k1 .starting 1 1)) = some (2, 2, 50#16, 50#16, 12#16) := by decide
theorem test_tick_reaches_idle :
    get (fun s => (s.phase, s.amp, s.tickIndex, s.bridgeState, s.tmrB)) (execTick (driving k1 .stopping 1 1))
      = some (.idle, 0, 1, .stopped,
          { cnt := 0#16, ccrPre := 12#16, ccrAct := 12#16, arr := 100#16, cen := false, cce := false, ccne := false,
            moe := false }) := by decide

theorem test_update_event :
    get (fun s => (s.tmrA.ccrAct, s.tmrB.ccrAct))
      (timerUpdate .A { driving k1 .running 4 0 with tmrA := onTimer 12#16 0#16, tmrB := onTimer 12#16 0#16 })
      = some (12#16, 0#16) := by decide
theorem test_count_bounds :
    get (fun s => s.tmrA.cnt) (timerCount .A 100#16 (driving k1 .running 4 0)) = some 100#16 ∧
    get (fun s => s.tmrA.cnt) (timerCount .A 101#16 (driving k1 .running 4 0)) = none ∧
    get (fun s => s.tmrA.cnt) (timerCount .A 0#16 s0) = none := by decide

/-! ### Values and program text -/

/-- 95_test_vectors.md section 0: 100 samples, 50 Hz and 2000 ms give R = 10000. -/
theorem test_derived_ramp : Config.default.derivedRampTicks = 10000 := by decide +kernel
theorem test_reference_table :
    Config.exampleTable[0]? = some 500 ∧ Config.exampleTable[1]? = some 531 ∧ Config.exampleTable[10]? = some 794 ∧
    Config.exampleTable[25]? = some 1000 ∧ Config.exampleTable[50]? = some 500 ∧
    Config.exampleTable[75]? = some 0 ∧ Config.exampleTable[99]? = some 469 := by decide
theorem test_checksums :
    chk [10#8, 20#8, 30#8, 40#8, 50#8, 60#8, 70#8, 80#8, 90#8] = 0x3F#8 ∧ chk (List.replicate 9 0#8) = 0x55#8 ∧
    chk (List.replicate 9 0xFF#8) = 0xAA#8 ∧ chk (List.replicate 9 1#8) = 0x54#8 ∧
    chk [255#8, 1#8, 2#8, 3#8, 4#8, 5#8, 6#8, 7#8, 8#8] = 0xA2#8 := by decide
theorem test_codes :
    [Phase.idle, .starting, .running, .stopping].map Phase.code = [0#2, 1#2, 2#2, 3#2] ∧
    [BridgeState.stopped, .running].map BridgeState.code = [0#1, 1#1] := by decide
theorem test_ramp_steps :
    [Phase.idle, .starting, .running, .stopping].map rampStep = [0, 1, 1, -1] := by decide
theorem test_line_operand : readLine "BYTE_RX 0x3F      ; checksum".toList = .line (.op none (.byteRx 0x3F#8)) := by
  decide
theorem test_line_agent : readLine "rx: BYTE_RX 10".toList = .line (.op (some .rx) (.byteRx 10#8)) := by decide
theorem test_line_operand_range : readLine "BYTE_RX 256".toList = .bad := by decide
theorem test_line_operand_of_format_n : readLine "TICK 1".toList = .bad := by decide
theorem test_line_ticks : readLine "TICKS 6".toList = .line (.ticks 6) := by decide
theorem test_line_bytes : readLine "BYTES 1, 0xff".toList = .line (.bytes [1#8, 255#8]) := by decide
theorem test_line_comment : readLine "  ; nothing".toList = .blank := by decide
theorem test_line_badframe_zero : readLine "BADFRAME 0, 1,2,3,4,5,6,7,8,9".toList = .bad := by decide
theorem test_badframe_words :
    programAgenda [.badFrame 0xFF#8 [10#8, 20#8, 30#8, 40#8, 50#8, 60#8, 70#8, 80#8, 90#8]]
      = [0x200A#16, 0x2014#16, 0x201E#16, 0x2028#16, 0x2032#16, 0x203C#16, 0x2046#16, 0x2050#16, 0x205A#16,
          0x20C0#16].map (Event.op .rx) := by decide

/-! ### Witnesses: states and operands that meet the hypotheses of each statement, clause by clause -/

theorem k1_ok : k1.ok = true := by decide +kernel
theorem k1i_ok : k1i.ok = true := by decide +kernel
theorem k1a_ok : k1a.ok = true := by decide +kernel
theorem k2_ok : k2.ok = true := by decide +kernel

theorem driving_inv {c : Config} {p : Phase} {a i : Nat} (hc : c.ok = true) (h100 : c.arr = 100) (hi : i < c.sineSamples)
    (hp : p ≠ .idle) (ha : a ≤ c.rampTicks) (hs : p = .starting → a < c.rampTicks)
    (hr : p = .running → a = c.rampTicks) : Inv (driving c p a i) := by
  have hcap := (Config.ok_bounds hc).2.1
  refine ⟨hc, ⟨rfl, ?_, ?_, hi⟩, rfl, ⟨by simp [driving, hp], by simp [driving], ?_⟩, ⟨ha, by simp [driving, hp], hs, hr⟩,
    ?_, ?_, fun _ => ⟨rfl, ?_, ?_⟩⟩
  · show 0 < c.cap; omega
  · show 0 < c.cap; omega
  · intro _ t; cases t <;> exact ⟨rfl, rfl, rfl, rfl⟩
  · intro t; cases t <;> · show 100#16 = BitVec.ofNat 16 c.arr; rw [h100]
  · intro t; cases t <;> · show 7 ≤ c.arr; omega
  · show 12 ≤ c.arr; omega
  · intro t; cases t <;> · show 12 ≤ c.arr; omega

theorem s0_inv : Inv s0 := by
  refine ⟨k1_ok, ⟨rfl, by decide, by decide, by decide⟩, rfl, ⟨by decide, ?_, nofun⟩,
    ⟨by decide, by decide, by decide, by decide⟩, ?_, ?_, nofun⟩
  · intro _ t; cases t <;> exact ⟨rfl, rfl, rfl, rfl⟩
  · intro t; cases t <;> rfl
  · intro t; cases t <;> decide

theorem starting_inv : Inv (driving k1 .starting 1 1) :=
  driving_inv k1_ok rfl (by decide) (by decide) (by decide) (by decide) (by decide)
theorem running_inv : Inv (driving k1 .running 4 3) :=
  driving_inv k1_ok rfl (by decide) (by decide) (by decide) (by decide) (by decide)
theorem stopping_inv : Inv (driving k1 .stopping 1 1) :=
  driving_inv k1_ok rfl (by decide) (by decide) (by decide) (by decide) (by decide)
theorem stopping_full_inv : Inv (driving k1 .stopping 4 1) :=
  driving_inv k1_ok rfl (by decide) (by decide) (by decide) (by decide) (by decide)
theorem stopping_ignore_inv : Inv (driving k1i .stopping 2 0) :=
  driving_inv k1i_ok rfl (by decide) (by decide) (by decide) (by decide) (by decide)
theorem starting_any_inv : Inv (driving k1a .starting 0 0) :=
  driving_inv k1a_ok rfl (by decide) (by decide) (by decide) (by decide) (by decide)

/-- A state with steps to come. -/
def withAgenda (s : State) (evs : List Event) : State := { s with agenda := evs }

theorem withAgenda_inv {s : State} (h : Inv s) (evs : List Event) : Inv (withAgenda s evs) := h.congr rfl

/-- FRAME 10, …, 90 in slots 0 to 9 of a ring of 16, nothing else. -/
def framed : State :=
  ringed k1 [(0, 10#8), (1, 20#8), (2, 30#8), (3, 40#8), (4, 50#8), (5, 60#8), (6, 70#8), (7, 80#8), (8, 90#8),
    (9, 0x3F#8)] 10 0

/-- The corrupted frame and the frame of 95_test_vectors.md 1.2 in a ring of 128. -/
def resynced : State :=
  ringed k2 [(0, 10#8), (1, 20#8), (2, 30#8), (3, 40#8), (4, 50#8), (5, 60#8), (6, 70#8), (7, 80#8), (8, 90#8),
    (9, 0xC0#8), (10, 10#8), (11, 20#8), (12, 30#8), (13, 40#8), (14, 50#8), (15, 60#8), (16, 70#8), (17, 80#8),
    (18, 90#8), (19, 0x3F#8)] 20 0

theorem framed_ranges : IndicesInRange framed := ⟨by decide, by decide, by decide, by decide⟩
theorem wrapped_ranges : IndicesInRange wrapped := ⟨by decide, by decide, by decide, by decide⟩
theorem mismatched_ranges : IndicesInRange mismatched := ⟨by decide, by decide, by decide, by decide⟩
theorem resynced_ranges : IndicesInRange resynced := ⟨by decide, by decide, by decide, by decide⟩

theorem witness_DecodingFollowsTheFields :
    (0x0FFF#16).toNat / 4096 = 0 ∧ (0x8000#16).toNat / 4096 = 8 ∧ (0x7100#16).toNat / 256 % 16 = 1 ∧
    (0x1001#16).toNat % 256 = 1 ∧ (0x2000#16).toNat / 4096 = 2 ∧ (0x20FF#16).toNat % 256 = 255 ∧
    (0x7000#16).toNat / 4096 = 7 ∧ (0x7000#16).toNat / 256 % 16 = 0 ∧ (0x7000#16).toNat % 256 = 0 := by decide

theorem witness_StepRunsTheDecodedOperation :
    (withAgenda s0 [.op .tick 0x7000#16]).live = true ∧ decode 0x7000#16 = .op .tick ∧ Instr.tick.owner = .tick := by
  decide +kernel

theorem witness_PlacedWordRunsNext : s0.live = true := by decide +kernel

theorem witness_RefusalReasonsInOrder :
    (∀ w, (withAgenda s0 [.op .task w]).live = true) ∧ (driving k1 .running 4 0).live = true ∧
    (driving k1 .running 4 0).bridgeState = .running ∧
    (0x0000#16).toNat / 4096 = 0 ∧ (0x3F00#16).toNat / 256 % 16 = 15 ∧ (0x2041#16).toNat / 4096 = 2 ∧
    (refuse .wrongAgent s0).refused = true ∧ ({ k1 with cap := 10 } : Config).ok = false := by
  refine ⟨fun _ => ?_, ?_⟩
  · show s0.live = true; decide +kernel
  · decide +kernel

theorem witness_HaltStopsTheBlock :
    (withAgenda s0 [.halt]).live = true ∧ (haltBlock s0).cfg.ok = true ∧ (haltBlock s0).halted = true := by
  decide +kernel

theorem witness_ModelBitsAreFinal :
    (∃ t, step s0 = .next t) ∧ (∃ t, step (withAgenda s0 [.halt]) = .next t ∧ t.halted = true) ∧
    (∃ t, step (withAgenda s0 [.op .task 0#16]) = .next t ∧ t.refused = true) ∧
    (refuse .wrongAgent s0).refused = true ∧ (haltBlock s0).halted = true ∧
    (∃ t, takeEvent (.op .task 0x1000#16) (refuse .wrongAgent s0) = .next t ∧ t.responses ≠ []) ∧
    (∃ t, takeEvent (.op .task 0x1000#16) (haltBlock s0) = .next t ∧ t.responses ≠ []) :=
  ⟨⟨_, rfl⟩, ⟨_, rfl, rfl⟩, ⟨_, rfl, rfl⟩, rfl, rfl, ⟨_, rfl, by decide⟩, _, rfl, by decide⟩

theorem witness_InvalidConfigurationHasNoRun :
    ¬ 11 ≤ ({ k1 with cap := 10 } : Config).cap ∧ ¬ 1 ≤ ({ k1 with rampTicks := 0 } : Config).rampTicks ∧
    ¬ ({ k1 with arr := 65536 } : Config).arr ≤ 0xFFFF := by decide

theorem witness_InitClearsTheStoppedBlock :
    s0.bridgeState = .stopped ∧ (driving k1 .running 4 0).bridgeState = .running := by decide

theorem witness_ByteRxStoresOneByte : IndicesInRange (ringed k1 [] 15 0) ∧ IndicesInRange (ringed k1 [] 0 15) :=
  ⟨⟨by decide, by decide, by decide, by decide⟩, ⟨by decide, by decide, by decide, by decide⟩⟩

theorem witness_FullRingBecomesEmpty :
    (ringed k1 [] 14 15).cfg.ok = true ∧ IndicesInRange (ringed k1 [] 14 15) ∧ avail (ringed k1 [] 14 15) = 16 - 1 ∧
    IndicesInRange (ringed k1 [] 13 15) ∧ avail (ringed k1 [] 13 15) = 14 :=
  ⟨k1_ok, ⟨by decide, by decide, by decide, by decide⟩, by decide, ⟨by decide, by decide, by decide, by decide⟩,
    by decide⟩

theorem witness_DecodeTriesOneFrame :
    avail (ringed k1 [] 9 0) = 9 ∧ avail framed = 10 ∧
    0x55#8 ^^^ 10#8 ^^^ 20#8 ^^^ 30#8 ^^^ 40#8 ^^^ 50#8 ^^^ 60#8 ^^^ 70#8 ^^^ 80#8 ^^^ 90#8 = memRead framed 9 ∧
    avail mismatched = 10 ∧ chk (List.replicate 9 1#8) ≠ memRead mismatched (15 + 9) := by decide

theorem witness_DecodeConsumesNoneOneOrTen :
    framed.cfg.ok = true ∧ IndicesInRange framed ∧ 10 ≤ avail framed ∧ IndicesInRange mismatched ∧
    10 ≤ avail mismatched ∧ avail s0 < 10 ∧ IndicesInRange s0 :=
  ⟨k1_ok, framed_ranges, by decide, mismatched_ranges, by decide, by decide, s0_inv.indices⟩

theorem witness_PayloadAndChecksumRoundTrip :
    [10#8, 20#8, 30#8, 40#8, 50#8, 60#8, 70#8, 80#8, 90#8].length = 9 ∧ wrapped.cfg.ok = true ∧
    IndicesInRange wrapped ∧ 10 ≤ avail wrapped ∧
    (∀ (k : Nat) (h : k < 9),
      memRead wrapped (wrapped.rbTail + k) = [10#8, 20#8, 30#8, 40#8, 50#8, 60#8, 70#8, 80#8, 90#8][k]) ∧
    memRead wrapped (wrapped.rbTail + 9)
      = 0x55#8 ^^^ [10#8, 20#8, 30#8, 40#8, 50#8, 60#8, 70#8, 80#8, 90#8].foldr (fun b x => b ^^^ x) 0#8 :=
  ⟨rfl, k1_ok, wrapped_ranges, by decide, by decide, by decide⟩

theorem witness_ReceivedFrameIsDecoded :
    ∃ p : List Byte, p.length = 9 ∧ s0.live = true ∧ IndicesInRange s0 ∧ avail s0 = 0 ∧
      (withAgenda s0 (programAgenda [.frame p, .op none .decode])).agenda
        = programAgenda [.frame p, .op none .decode] ++ [] ∧
      (withAgenda s0 (programAgenda [.badFrame 1#8 p, .op none .decode])).agenda
        = programAgenda [.badFrame 1#8 p, .op none .decode] ++ [] :=
  ⟨List.replicate 9 0#8, rfl, by decide +kernel, s0_inv.indices, by decide, by decide, by decide⟩

theorem witness_ResyncDiscardsTheCorruptedFrame :
    (withAgenda resynced (decodeEvents 11)).live = true ∧ IndicesInRange (withAgenda resynced (decodeEvents 11)) ∧
    20 ≤ avail resynced ∧
    (∀ k, k < 10 → chk ((List.range 9).map fun j => memRead resynced (0 + (k + j))) ≠ memRead resynced (0 + (k + 9))) ∧
    chk ((List.range 9).map fun j => memRead resynced (0 + (10 + j))) = memRead resynced (0 + 19) ∧
    (withAgenda resynced (decodeEvents 11)).agenda = decodeEvents 11 ++ [] :=
  ⟨by decide +kernel, ⟨by decide, by decide, by decide, by decide⟩, by decide, by decide, by decide, by decide⟩

theorem witness_WrappedFramesDecodeAlike :
    framed.cfg.ok = true ∧ wrapped.cfg = framed.cfg ∧ IndicesInRange framed ∧ IndicesInRange wrapped ∧
    avail wrapped = avail framed ∧
    (∀ k, k < avail framed → memRead wrapped (wrapped.rbTail + k) = memRead framed (framed.rbTail + k)) ∧
    wrapped.cmdFull = framed.cmdFull ∧ wrapped.cmdValue = framed.cmdValue :=
  ⟨k1_ok, rfl, framed_ranges, wrapped_ranges, by decide, by decide, rfl, rfl⟩

theorem witness_CmdReadTakesTheValue :
    ({ s0 with cmdFull := true } : State).cmdFull = true ∧ s0.cmdFull = false := by decide

theorem witness_CmdReadSeesTheLastPublished :
    framed.cmdFull = false ∧ (withAgenda framed [.op .task 0x3000#16]).agenda = [.op .task 0x3000#16] ++ [] ∧
    (∀ g, Event.op g (encode .cmdRead) ∉ [Event.op .task 0x3000#16]) ∧
    (∀ g, Event.op g (encode .init) ∉ [Event.op .task 0x3000#16]) ∧
    ∃ t, Sys2Proof.core.run 1 (withAgenda framed [.op .task 0x3000#16]) = .next t ∧ t.cmdFull = true :=
  ⟨by decide, by decide, by intro g; cases g <;> decide, by intro g; cases g <;> decide, ⟨_, rfl, rfl⟩⟩

theorem witness_StartBeginsASoftStart :
    s0.phase = .idle ∧ (driving k1 .stopping 3 0).phase = .stopping ∧
    (driving k1 .stopping 3 0).cfg.startWhileStopping = .restart ∧
    (driving k1i .stopping 2 0).cfg.startWhileStopping = .ignore ∧ (driving k1 .starting 0 0).phase = .starting ∧
    (driving k1 .running 4 0).phase = .running := by decide

theorem witness_StopBeginsASoftStop :
    s0.phase = .idle ∧ (driving k1 .stopping 3 0).phase = .stopping ∧ (driving k1 .starting 0 0).phase = .starting ∧
    (driving k1 .running 4 0).phase = .running := by decide

theorem witness_TickIsOneModulationUpdate :
    (driving k1 .starting 3 3).cfg.ok = true ∧ (driving k1 .starting 3 3).sineTable[3]? = some 0#16 ∧
    (4 : Int) ≤ (3 : Int) + 1 ∧ (driving k1 .starting 3 3).cfg.rampTicks = 4 ∧
    (driving k1 .stopping 1 1).sineTable[1]? = some 100#16 ∧ (driving k1 .stopping 1 1).amp = 1 ∧
    (driving k1 .stopping 2 1).amp = 2 ∧ s0.phase = .idle ∧ s0.sineTable[s0.tickIndex]? = some 50#16 :=
  ⟨k1_ok, by decide, by decide, rfl, by decide, rfl, rfl, rfl, by decide⟩

theorem witness_TimerAgentsStepWhileCounting :
    (withAgenda (driving k1 .running 4 0) [.update .A]).live = true ∧ (driving k1 .running 4 0).tmrA.cen = true ∧
    (withAgenda (driving k1 .running 4 0) [.update .B]).live = true ∧ (driving k1 .running 4 0).tmrB.cen = true ∧
    (withAgenda (driving k1 .running 4 0) [.count .A 0#16]).live = true ∧
    (withAgenda (driving k1 .running 4 0) [.count .B 100#16]).live = true ∧
    (100#16).toNat ≤ (driving k1 .running 4 0).cfg.arr ∧ (driving k1 .running 4 0).cfg.arr < (101#16).toNat ∧
    (withAgenda s0 [.update .A]).live = true ∧ s0.tmrA.cen = false ∧
    (withAgenda s0 [.count .B 0#16]).live = true ∧ s0.tmrB.cen = false := by decide +kernel

theorem witness_ReceiveSideFrame :
    (∃ t, exec (.byteRx 255#8) s0 = .next t) ∧ (∃ t, exec .decode framed = .next t ∧ t.cmdFull = true) ∧
    (∃ t, exec .cmdRead s0 = .next t) := ⟨⟨_, rfl⟩, ⟨_, rfl, rfl⟩, ⟨_, rfl⟩⟩

theorem witness_DriveSideFrame :
    (∃ t, exec .start s0 = .next t) ∧ (∃ t, exec .stop (driving k1 .running 4 0) = .next t) ∧
    (∃ t, exec .tick (driving k1 .stopping 1 0) = .next t ∧ t.phase = .idle) := ⟨⟨_, rfl⟩, ⟨_, rfl⟩, ⟨_, rfl, rfl⟩⟩

theorem witness_CommandValueDrivesNothing :
    Instr.tick ≠ .decode ∧ Instr.tick ≠ .cmdRead ∧ ∃ t, exec .tick (driving k1 .starting 1 1) = .next t :=
  ⟨by decide, by decide, _, rfl⟩

theorem witness_ConfigurationAndTableAreConstant :
    ∃ t, step (withAgenda s0 [.op .task 0x1000#16]) = .next t ∧ t.responses = [(.task, .ack)] := ⟨_, rfl, rfl⟩

theorem witness_PhaseTransitionTable :
    Inv s0 ∧ Inv (driving k1 .starting 1 1) ∧ Inv (driving k1 .running 4 3) ∧ Inv (driving k1 .stopping 1 1) ∧
    Inv (driving k1 .stopping 4 1) ∧ Inv (driving k1i .stopping 2 0) :=
  ⟨s0_inv, starting_inv, running_inv, stopping_inv, stopping_full_inv, stopping_ignore_inv⟩

theorem witness_RepeatedRequestsChangeNothing :
    s0.phase = .idle ∧ (driving k1 .stopping 3 0).phase = .stopping ∧ (driving k1 .starting 0 0).phase = .starting ∧
    (driving k1 .running 4 0).phase = .running := by decide

theorem witness_BridgeStopsOncePerStop :
    (Inv (withAgenda (driving k1 .stopping 1 1) [.op .tick 0x7000#16]) ∧
      ∃ t, step (withAgenda (driving k1 .stopping 1 1) [.op .tick 0x7000#16]) = .next t ∧ t.phase = .idle) ∧
    (Inv (withAgenda s0 [.op .task 0x5000#16]) ∧
      ∃ t, step (withAgenda s0 [.op .task 0x5000#16]) = .next t ∧ t.phase ≠ .idle) :=
  ⟨⟨withAgenda_inv stopping_inv _, _, rfl, rfl⟩, withAgenda_inv s0_inv _, _, rfl, by decide⟩

theorem witness_AmplitudeIsMonotone :
    (∃ t, step (withAgenda (driving k1 .starting 1 1) [.op .tick 0x7000#16]) = .next t ∧ t.phase = .starting) ∧
    (∃ t, step (withAgenda (driving k1 .stopping 3 1) [.op .tick 0x7000#16]) = .next t ∧ t.phase = .stopping) :=
  ⟨⟨_, rfl, rfl⟩, ⟨_, rfl, rfl⟩⟩

/-- START, then an update event, a received byte and a tick. -/
def afterStart : List Event := [.update .A, .op .rx 0x2001#16, .op .tick 0x7000#16]

theorem witness_SoftStartTakesRampTicks :
    Inv (withAgenda s0 (issueEvent (.task, .start) :: (afterStart ++ []))) ∧ s0.phase = .idle ∧
    (∀ g, Event.op g (encode .stop) ∉ afterStart) ∧
    (∃ t, Sys2Proof.core.run 4 (withAgenda s0 (issueEvent (.task, .start) :: (afterStart ++ []))) = .next t ∧
      t.amp = 1) ∧
    Inv (driving k1 .stopping 1 1) ∧ (driving k1 .stopping 1 1).cfg.startWhileStopping = .restart ∧
    (withAgenda s0 (issueEvent (.task, .start) :: tickEvents 2)).live = true :=
  ⟨withAgenda_inv s0_inv _, rfl, by intro g; cases g <;> decide, ⟨_, rfl, rfl⟩, stopping_inv, rfl,
    by decide +kernel⟩

theorem witness_SoftStopTakesTheAmplitudeReached :
    Inv (withAgenda (driving k1 .starting 1 1) (issueEvent (.task, .stop) :: (afterStart ++ []))) ∧
    (driving k1 .starting 1 1).phase = .starting ∧ (∀ g, Event.op g (encode .start) ∉ afterStart) ∧
    (∃ t, Sys2Proof.core.run 4 (withAgenda (driving k1 .starting 1 1) (issueEvent (.task, .stop) :: (afterStart ++ [])))
      = .next t ∧ t.bridgeState = .stopped) ∧
    (withAgenda (driving k1 .running 4 3) (issueEvent (.task, .stop) :: tickEvents 4)).live = true ∧
    Inv (driving k1 .running 4 3) :=
  ⟨withAgenda_inv starting_inv _, rfl, by intro g; cases g <;> decide, ⟨_, rfl, rfl⟩, by decide +kernel, running_inv⟩

theorem witness_DutyIsBounded :
    (∃ t, Inv (driving k1 .starting 1 1) ∧ (driving k1 .starting 1 1).phase ≠ .idle ∧
      exec .tick (driving k1 .starting 1 1) = .next t ∧ t.phase ≠ .idle) ∧
    (∃ t, Inv (driving k1a .starting 0 0) ∧ (driving k1a .starting 0 0).phase ≠ .idle ∧
      exec .tick (driving k1a .starting 0 0) = .next t ∧ t.phase ≠ .idle) :=
  ⟨⟨_, starting_inv, by decide, rfl, by decide⟩, ⟨_, starting_any_inv, by decide, rfl, by decide⟩⟩

theorem witness_DutySequenceAfterStart :
    Inv (withAgenda s0 (issueEvent (.task, .start) :: (tickEvents 1 ++ []))) ∧
    (withAgenda s0 (issueEvent (.task, .start) :: (tickEvents 1 ++ []))).live = true ∧ s0.phase = .idle :=
  ⟨withAgenda_inv s0_inv _, by decide +kernel, rfl⟩

theorem witness_DutySequenceAfterStop :
    Inv (withAgenda (driving k1 .running 4 3) (issueEvent (.task, .stop) :: (tickEvents 4 ++ []))) ∧
    (withAgenda (driving k1 .running 4 3) (issueEvent (.task, .stop) :: (tickEvents 4 ++ []))).live = true ∧
    (driving k1 .running 4 3).phase = .running ∧ (3 : Nat) < k1.rampTicks ∧ (4 : Nat) = k1.rampTicks :=
  ⟨withAgenda_inv running_inv _, by decide +kernel, rfl, by decide, by decide⟩

theorem witness_OutputsEnabledOnlyWhenZeroed : PhaseMatchesBridge s0 ∧ s0.bridgeState = .stopped :=
  ⟨s0_inv.bridge, rfl⟩

theorem witness_GateEnablesFollowTheBridge :
    Inv s0 ∧ Inv (driving k1 .running 4 3) ∧ outMainEn (driving k1 .running 4 3) .A = true ∧ outMainEn s0 .B = false :=
  ⟨s0_inv, running_inv, by decide, by decide⟩

theorem witness_OnlyStartEnablesOutputs :
    (∃ t, Inv (withAgenda s0 [.op .task 0x5000#16]) ∧ step (withAgenda s0 [.op .task 0x5000#16]) = .next t ∧
      (outMainEn s0 .A = false ∧ outMainEn t .A = true) ∧ outCompEn s0 .B = false ∧ outCompEn t .B = true) ∧
    (∃ t, Inv (withAgenda (driving k1 .stopping 1 1) [.op .tick 0x7000#16]) ∧
      step (withAgenda (driving k1 .stopping 1 1) [.op .tick 0x7000#16]) = .next t ∧
      (outMainEn (driving k1 .stopping 1 1) .B = true ∧ outMainEn t .B = false) ∧
      outCompEn (driving k1 .stopping 1 1) .A = true ∧ outCompEn t .A = false) :=
  ⟨⟨_, withAgenda_inv s0_inv _, rfl, by decide, by decide, by decide⟩,
    ⟨_, withAgenda_inv stopping_inv _, rfl, by decide, by decide, by decide⟩⟩

theorem witness_LaunchMeetsTheInvariant :
    k1.ok = true ∧ ({ Launch.zero with cntA := 100#16, ccrPreB := 0xFFFF#16, rbBuf := [(15, 1#8)] } : Launch).ok k1 = true :=
  ⟨k1_ok, by decide⟩

theorem witness_StepKeepsTheInvariant :
    Inv (withAgenda (driving k1 .running 4 3) [.count .A 100#16]) ∧
    ∃ t, step (withAgenda (driving k1 .running 4 3) [.count .A 100#16]) = .next t :=
  ⟨withAgenda_inv running_inv _, _, rfl⟩

theorem witness_reached :
    ∃ s, ReachedIn k1 Launch.zero [.op .task 0x5000#16, .op .tick 0x7000#16] 2 s ∧ s.bridgeState = .running :=
  ⟨_, ⟨k1_ok, by decide, rfl⟩, rfl⟩

/-- Both bridge states are reached, and both phases the amplitude clauses name. -/
theorem witness_ReachablePhaseMatchesBridge :
    (∃ s, ReachedIn k1 Launch.zero [] 0 s ∧ s.bridgeState = .stopped) ∧
    (∃ s, ReachedIn k3 Launch.zero [.op .task 0x5000#16, .op .tick 0x7000#16] 2 s ∧ s.phase = .running) :=
  ⟨⟨_, ⟨k1_ok, by decide, rfl⟩, rfl⟩, ⟨_, ⟨by decide +kernel, by decide, rfl⟩, rfl⟩⟩

theorem witness_ReachableAmplitudeInRange :
    (∃ s, ReachedIn k1 Launch.zero [] 0 s ∧ s.phase = .idle) ∧
    (∃ s, ReachedIn k3 Launch.zero [.op .task 0x5000#16, .op .tick 0x7000#16] 2 s ∧ s.phase = .running) :=
  ⟨⟨_, ⟨k1_ok, by decide, rfl⟩, rfl⟩, ⟨_, ⟨by decide +kernel, by decide, rfl⟩, rfl⟩⟩

theorem witness_ComparesEqualOnceStarted :
    ∃ s s' t, ReachedIn k1 Launch.zero [.op .task 0x5000#16, .op .tick 0x7000#16] 0 s ∧
      s.agenda.head? = some (.op .task (encode .start)) ∧ step s = .next s' ∧ Sys2Proof.core.run 1 s' = .next t ∧
      t.tmrA.ccrPre = 12#16 :=
  ⟨_, _, _, ⟨k1_ok, by decide, rfl⟩, by decide, rfl, rfl, by decide⟩

theorem witness_StepIgnoresUnwrittenStorage :
    ∃ s s' t, IndicesInRange s ∧ IndicesInRange s' ∧ DiffersInUnwritten s s' ∧ s ≠ s' ∧ step s = .next t :=
  ⟨s0, { s0 with rbBuf := [(3, 9#8)], cmdValue := 7#8 }, _, s0_inv.indices,
    ⟨by decide, by decide, by decide, by decide⟩, ⟨rfl, by decide, by decide⟩, by decide, rfl⟩

theorem witness_ResetContentsNeverObserved :
    ∃ d' s, ReachedIn k1 Launch.zero [.op .task 0x4000#16] 1 s ∧
      d' = { Launch.zero with rbBuf := d'.rbBuf, cmdValue := d'.cmdValue } ∧ d'.ok k1 = true ∧ d' ≠ Launch.zero :=
  ⟨{ Launch.zero with rbBuf := [(3, 9#8)], cmdValue := 7#8 }, _, ⟨k1_ok, by decide, rfl⟩, rfl, by decide, by decide⟩

theorem witness_CommandedAmplitudeIsAByteOver255 :
    ({ s0 with cmdValue := 255#8 } : State).cmdValue = 255#8 ∧ s0.cmdValue = 0#8 ∧
    ({ s0 with cmdValue := 10#8 } : State).cmdValue = 10#8 := by decide

end Sys2Proof.Tests
end

section
/-! Scope (00_scope.md): the configurations that have a run, and the operation an issued word runs. -/

namespace Sys2Proof.Machine

open Sys2Proof

/-- The check on a configuration is the conjunction of the constraints of 00_scope.md R6. -/
theorem Config.ok_iff (c : Config) :
    c.ok = true ↔
      1 ≤ c.sineSamples ∧ 11 ≤ c.cap ∧ c.arr ≤ 0xFFFF ∧ c.sineTable.length = c.sineSamples ∧
        (∀ e ∈ c.sineTable, e ≤ c.arr) ∧ 1 ≤ c.rampTicks ∧ 0 < c.sineFreqHz ∧ 0 < c.softMs := by
  simp only [Sys2Proof.Config.ok, Bool.and_eq_true, decide_eq_true_eq, List.all_eq_true, Rat.num_pos, and_assoc]

/-- Issued by its owner, an operation's word runs the operation (60_exceptions.md R199: no reason to refuse it). -/
theorem issue_owned {g : Agent} {w : Word} {i : Instr} (hdecode : decode w = .op i) (howner : i.owner = g)
    (s : State) : issue g w s = exec i s := by
  simp only [issue, hdecode, howner, if_true]

theorem step_of_config_not_ok {s : State} (h : s.cfg.ok = false) : step s = .refused .invalidConfiguration :=
  if_pos h

end Sys2Proof.Machine

open Sys2Proof Sys2Proof.Machine

/-- Settles O5: a live block's step takes the entry, and its issuer is the owner of the operation it spells. -/
theorem stepRunsTheDecodedOperation : Obligations.StepRunsTheDecodedOperation := by
  intro s g w rest i hlive hagenda hdecode howner
  calc step s = issue g w { s with agenda := rest } := step_entry hlive hagenda
    _ = exec i { s with agenda := rest } := issue_owned hdecode howner _

/-- Settles O10: the check on the configuration, which `step` makes first, says exactly the constraints of R6. -/
theorem invalidConfigurationHasNoRun : Obligations.InvalidConfigurationHasNoRun := by
  intro s hviolated
  have hcfg : s.cfg.ok = false := Bool.eq_false_iff.mpr fun hok => hviolated ((Config.ok_iff s.cfg).mp hok)
  exact step_of_config_not_ok hcfg

end

section
/-! Everything an operation can answer, one lemma each, and what taking an entry of the agenda can do in terms of
operations rather than words. -/

namespace Sys2Proof.Machine

open Sys2Proof

/-- A format-N word is read as its operation only when its operand bits are zero (30_encoding.md R72). -/
theorem formatN_eq_op {i j : Instr} {w : Word} (h : formatN i w = .op j) : j = i ∧ immField w = 0#8 := by
  unfold formatN at h
  split at h
  · exact ⟨by simpa using h.symm, ‹_›⟩
  · cases h

/-- A word is its three fields (30_encoding.md R71). -/
theorem eq_encode_of_fields {i : Instr} {w : Word} (hop : opField w = i.opcode) (hrsv : rsvField w = 0#4)
    (himm : immField w = i.imm) : w = encode i := by
  apply BitVec.eq_of_toNat_eq
  have h1 := opField_toNat w
  have h2 := rsvField_toNat w
  have h3 := immField_toNat w
  rw [hop] at h1
  rw [hrsv] at h2
  rw [himm] at h3
  rw [encode_toNat]
  simp only [BitVec.toNat_ofNat] at h2
  omega

/-- A word read as an operation is that operation's word (30_encoding.md R77). -/
theorem eq_encode_of_decode {w : Word} {i : Instr} (h : decode w = .op i) : w = encode i := by
  unfold decode at h
  split at h; · cases h
  split at h; · cases h
  rename_i hrange hrsv
  have hrsv : rsvField w = 0#4 := not_not.mp hrsv
  have hop {n : Nat} (hn : (opField w).toNat = n) : opField w = BitVec.ofNat 4 n := by simp [← hn]
  split at h
  case h_2 h2 =>
    obtain rfl : Instr.byteRx (immField w) = i := by simpa using h
    exact eq_encode_of_fields (hop h2) hrsv rfl
  case h_7 =>
    obtain ⟨rfl, himm⟩ := formatN_eq_op h
    have h7 : (opField w).toNat = 7 := by grind
    exact eq_encode_of_fields (hop h7) hrsv himm
  all_goals
    rename_i hn
    obtain ⟨rfl, himm⟩ := formatN_eq_op h
    exact eq_encode_of_fields (hop hn) hrsv himm

/-- What taking an entry can answer: the refusal of a word, the operation its own word spells to its owner, a timer's
step, or the halt. -/
theorem takeEvent_cases {e : Event} {s t : State} (h : takeEvent e s = .next t) :
    (∃ r, t = refuse r s) ∨
      (∃ i : Instr, e = .op i.owner (encode i) ∧ exec i s = .next t) ∨
      (∃ u, e = .update u ∧ (s.tmr u).cen = true ∧ t = mapTimer u (fun x => { x with ccrAct := x.ccrPre }) s) ∨
      (∃ u c, e = .count u c ∧ (s.tmr u).cen = true ∧ c.toNat ≤ s.cfg.arr ∧
        t = mapTimer u (fun x => { x with cnt := c }) s) ∨
      (e = .halt ∧ t = haltBlock s) := by
  obtain h | ⟨g, w, i, rfl, hd, rfl, he⟩ | ⟨u, rfl, hu⟩ | ⟨u, c, rfl, hc⟩ | h := takeEvent_next h
  · exact .inl h
  · exact .inr (.inl ⟨i, by rw [eq_encode_of_decode hd], he⟩)
  · exact .inr (.inr (.inl ⟨u, rfl, timerUpdate_next hu⟩))
  · exact .inr (.inr (.inr (.inl ⟨u, c, rfl, timerCount_next hc⟩)))
  · exact .inr (.inr (.inr (.inr h)))

/-! ### The operations -/

section

variable {s t : State}

theorem execInit_next (h : exec .init s = .next t) :
    s.bridgeState = .running ∧ t = refuse .initWhileRunning s ∨
      s.bridgeState = .stopped ∧ t = respond .task .ack (initState s) := by
  simp only [exec, execInit] at h
  split at h
  · exact .inl ⟨‹_›, by simpa using h.symm⟩
  · exact .inr ⟨‹_›, by simpa using h.symm⟩

theorem execByteRx_next {d : Byte} (h : exec (.byteRx d) s = .next t) :
    t = respond .rx .ack { memWrite s s.rbHead d with rbHead := (s.rbHead + 1) % s.cfg.cap } := by
  simpa [exec, execByteRx] using h.symm

theorem execDecode_next (h : exec .decode s = .next t) :
    avail s < 10 ∧ t = respond .task .noframe s ∨
      10 ≤ avail s ∧ windowValid s = true ∧
        t = respond .task (.frame (windowPayload s)) (cmdPublish (unreadByte s 0) (consume 10 s)) ∨
      10 ≤ avail s ∧ windowValid s = false ∧ t = respond .task .noframe (consume 1 s) := by
  rw [exec] at h
  rcases Nat.lt_or_ge (avail s) 10 with ha | ha
  · rw [execDecode_underrun ha] at h
    exact .inl ⟨ha, by simpa using h.symm⟩
  cases hv : windowValid s
  · rw [execDecode_resync ha hv] at h
    exact .inr (.inr ⟨ha, rfl, by simpa using h.symm⟩)
  · rw [execDecode_frame ha hv] at h
    exact .inr (.inl ⟨ha, rfl, by simpa using h.symm⟩)

theorem execCmdRead_next (h : exec .cmdRead s = .next t) :
    s.cmdFull = true ∧ t = respond .task (.value s.cmdValue) (cmdTake s) ∨
      s.cmdFull = false ∧ t = respond .task .empty s := by
  simp only [exec, execCmdRead] at h
  split at h
  · exact .inl ⟨‹_›, by simpa using h.symm⟩
  · exact .inr ⟨Bool.eq_false_iff.mpr ‹_›, by simpa using h.symm⟩

/-- START begins a soft start, from Idle with the bridge started first, or changes nothing. -/
theorem execStart_next (h : exec .start s = .next t) :
    s.phase = .idle ∧
        t = respond .task .ack { bridgeStartSeq s with phase := .starting, amp := 0 } ∨
      s.phase = .stopping ∧ s.cfg.startWhileStopping = .restart ∧
        t = respond .task .ack { s with phase := .starting, amp := 0 } ∨
      s.phase ≠ .idle ∧ t = respond .task .ack s := by
  simp only [exec, execStart] at h
  cases hp : s.phase with
  | idle =>
    simp only [hp] at h
    have hidle : (bridgeStartSeq s).phase = .idle := by rw [bridgeStartSeq_eq]; exact hp
    obtain ⟨-, hr⟩ | ⟨hn, -⟩ := rampStart_cases (bridgeStartSeq s)
    · exact .inl ⟨rfl, by rw [← hr]; simpa using h.symm⟩
    · simp [hidle] at hn
  | stopping =>
    simp only [hp] at h
    obtain ⟨hn, hr⟩ | ⟨-, hr⟩ := rampStart_cases s
    · exact .inr (.inl ⟨rfl, by simpa [hp] using hn, by rw [← hr]; simpa using h.symm⟩)
    · exact .inr (.inr ⟨by simp, by rw [hr] at h; simpa using h.symm⟩)
  | starting | running =>
    simp only [hp] at h
    exact .inr (.inr ⟨by simp, by simpa using h.symm⟩)

theorem execStop_next (h : exec .stop s = .next t) :
    (s.phase = .starting ∨ s.phase = .running) ∧ t = respond .task .ack { s with phase := .stopping } ∨
      (s.phase = .idle ∨ s.phase = .stopping) ∧ t = respond .task .ack s := by
  obtain rfl : respond .task .ack (rampStop s) = t := by simpa [exec, execStop] using h
  obtain ⟨hp, hr⟩ | ⟨hp, hr⟩ := rampStop_cases s
  · exact .inl ⟨hp, by rw [hr]⟩
  · exact .inr ⟨hp, by rw [hr]⟩

/-- The ramp after a tick that writes a duty: R in Running, or one count on in the same phase
(42_ramp_controller.md R128). -/
def TickRamp (s : State) (p : Phase) (a : Nat) : Prop :=
  a = s.cfg.rampTicks ∧ p = .running ∨
    p = s.phase ∧ 0 < a ∧ a < s.cfg.rampTicks ∧ (a : Int) = s.amp + rampStep s.phase

/-- Away from Idle, Advance ends a soft stop or moves the ramp on. -/
theorem advance_cases (h : s.phase ≠ .idle) :
    s.phase = .stopping ∧ s.amp ≤ 1 ∧ advance s = (bridgeStopSeq { s with amp := 0, phase := .idle }, true) ∨
      ∃ p a, TickRamp s p a ∧ advance s = ({ s with amp := a, phase := p }, false) := by
  have up (hp : s.phase = .starting ∨ s.phase = .running) :
      ∃ p a, TickRamp s p a ∧ advance s = ({ s with amp := a, phase := p }, false) := by
    have hr : rampStep s.phase = 1 := by rcases hp with hp | hp <;> rw [hp] <;> rfl
    rw [advance_up hp]
    split
    · exact ⟨_, _, .inl ⟨rfl, rfl⟩, rfl⟩
    · exact ⟨s.phase, s.amp + 1, .inr ⟨rfl, by omega, by omega, by omega⟩, rfl⟩
  cases hp : s.phase with
  | idle => exact absurd hp h
  | starting => exact .inr (up (.inl hp))
  | running => exact .inr (up (.inr hp))
  | stopping =>
    have hr : rampStep s.phase = -1 := by rw [hp]; rfl
    rw [advance_down hp]
    split
    · exact .inr ⟨_, _, .inl ⟨rfl, rfl⟩, rfl⟩
    split
    · exact .inl ⟨rfl, ‹_›, rfl⟩
    · exact .inr ⟨s.phase, s.amp - 1, .inr ⟨rfl, by omega, by omega, by omega⟩, rfl⟩

/-- TICK does nothing in Idle, ends a soft stop, or moves the ramp on and writes a duty. -/
theorem execTick_next (h : exec .tick s = .next t) :
    s.phase = .idle ∧ t = respond .tick .ack s ∨
      s.phase = .stopping ∧ s.amp ≤ 1 ∧
        t = respond .tick .ack (bridgeStopSeq { s with amp := 0, phase := .idle }) ∨
      s.phase ≠ .idle ∧ ∃ p a, TickRamp s p a ∧
        t = respond .tick .ack (writeDuty { s with amp := a, phase := p }) := by
  rw [exec] at h
  by_cases hi : s.phase = .idle
  · rw [execTick_idle hi] at h
    exact .inl ⟨hi, by simpa using h.symm⟩
  obtain ⟨hp, ha, he⟩ | ⟨p, a, hr, he⟩ := advance_cases hi
  · rw [execTick_stops hi he] at h
    exact .inr (.inl ⟨hp, ha, by simpa using h.symm⟩)
  · rw [execTick_writes hi he] at h
    exact .inr (.inr ⟨hi, p, a, hr, by simpa using h.symm⟩)

end

end Sys2Proof.Machine
end

section
/-! The drive side of the block (ramp, table, bridge, timers) as a transition relation: all that a step of any agent can
do to it, and what of the invariant rests on it alone. -/

namespace Sys2Proof.Machine

open Sys2Proof

/-- The values of 10_state.md R26 to R33, with the configuration they are bounded by. -/
structure Drive where
  phase : Phase
  amp : Nat
  tickIndex : Nat
  sineTable : List Half
  bridgeState : BridgeState
  tmrA : Timer
  tmrB : Timer
  cfg : Config

/-- The drive side of a state. -/
def State.drive (s : State) : Drive where
  phase := s.phase
  amp := s.amp
  tickIndex := s.tickIndex
  sineTable := s.sineTable
  bridgeState := s.bridgeState
  tmrA := s.tmrA
  tmrB := s.tmrB
  cfg := s.cfg

/-- Entry `e`, taken in `s`, leaves the drive side as it is in `d`. -/
inductive DriveStep (s : State) : Event → State → Prop
  | keep (e : Event) : DriveStep s e s
  | init (hb : s.bridgeState = .stopped) :
    DriveStep s (.op .task (encode .init))
      { s with sineTable := tableEntries s.cfg, phase := .idle, amp := 0, tickIndex := 0 }
  | start (hp : s.phase = .idle) :
    DriveStep s (.op .task (encode .start))
      { s with
        phase := .starting, amp := 0, bridgeState := .running, tmrA := s.tmrA.started, tmrB := s.tmrB.started }
  | restart (hp : s.phase = .stopping) :
    DriveStep s (.op .task (encode .start)) { s with phase := .starting, amp := 0 }
  | stop (hp : s.phase = .starting ∨ s.phase = .running) :
    DriveStep s (.op .task (encode .stop)) { s with phase := .stopping }
  | tickStops (hp : s.phase = .stopping) (ha : s.amp ≤ 1) :
    DriveStep s (.op .tick (encode .tick))
      { s with
        phase := .idle, amp := 0, bridgeState := .stopped, tmrA := s.tmrA.stopped, tmrB := s.tmrB.stopped }
  | tickWrites {p : Phase} {a : Nat} (hp : s.phase ≠ .idle) (hr : TickRamp s p a) :
    DriveStep s (.op .tick (encode .tick)) (writeDuty { s with amp := a, phase := p })
  | update (u : TimerId) (hc : (s.tmr u).cen = true) :
    DriveStep s (.update u) (mapTimer u (fun x => { x with ccrAct := x.ccrPre }) s)
  | count (u : TimerId) (c : Half) (hc : (s.tmr u).cen = true) (hle : c.toNat ≤ s.cfg.arr) :
    DriveStep s (.count u c) (mapTimer u (fun x => { x with cnt := c }) s)

section

variable {s t d : State} {e : Event}

theorem exec_drive {i : Instr} (h : exec i s = .next t) :
    ∃ d, DriveStep s (.op i.owner (encode i)) d ∧ t.drive = d.drive := by
  cases i with
  | init =>
    obtain ⟨-, rfl⟩ | ⟨hb, rfl⟩ := execInit_next h
    · exact ⟨_, .keep _, rfl⟩
    · exact ⟨_, .init hb, rfl⟩
  | byteRx b =>
    obtain rfl := execByteRx_next h
    exact ⟨_, .keep _, rfl⟩
  | decode =>
    obtain ⟨-, rfl⟩ | ⟨-, -, rfl⟩ | ⟨-, -, rfl⟩ := execDecode_next h <;> exact ⟨_, .keep _, rfl⟩
  | cmdRead =>
    obtain ⟨-, rfl⟩ | ⟨-, rfl⟩ := execCmdRead_next h <;> exact ⟨_, .keep _, rfl⟩
  | start =>
    obtain ⟨hp, rfl⟩ | ⟨hp, -, rfl⟩ | ⟨-, rfl⟩ := execStart_next h
    · exact ⟨_, .start hp, by rw [bridgeStartSeq_eq]; rfl⟩
    · exact ⟨_, .restart hp, rfl⟩
    · exact ⟨_, .keep _, rfl⟩
  | stop =>
    obtain ⟨hp, rfl⟩ | ⟨-, rfl⟩ := execStop_next h
    · exact ⟨_, .stop hp, rfl⟩
    · exact ⟨_, .keep _, rfl⟩
  | tick =>
    obtain ⟨-, rfl⟩ | ⟨hp, ha, rfl⟩ | ⟨hp, p, a, hr, rfl⟩ := execTick_next h
    · exact ⟨_, .keep _, rfl⟩
    · exact ⟨_, .tickStops hp ha, by rw [bridgeStopSeq_eq]; rfl⟩
    · exact ⟨_, .tickWrites hp hr, rfl⟩

/-- `DriveStep` covers every entry taken. -/
theorem takeEvent_drive (h : takeEvent e s = .next t) : ∃ d, DriveStep s e d ∧ t.drive = d.drive := by
  obtain ⟨r, rfl⟩ | ⟨i, rfl, he⟩ | ⟨u, rfl, hc, rfl⟩ | ⟨u, c, rfl, hc, hle, rfl⟩ | ⟨rfl, rfl⟩ := takeEvent_cases h
  · exact ⟨_, .keep _, rfl⟩
  · exact exec_drive he
  · exact ⟨_, .update u hc, rfl⟩
  · exact ⟨_, .count u c hc hle, rfl⟩
  · exact ⟨_, .keep _, rfl⟩

theorem tmr_eq_of_drive_eq (h : t.drive = d.drive) (u : TimerId) : t.tmr u = d.tmr u := by
  cases u
  · exact congrArg Drive.tmrA h
  · exact congrArg Drive.tmrB h

/-! ### What each change leaves -/

@[simp] theorem writeDuty_phase (s : State) : (writeDuty s).phase = s.phase := by rw [writeDuty_eq]
@[simp] theorem writeDuty_amp (s : State) : (writeDuty s).amp = s.amp := by rw [writeDuty_eq]
@[simp] theorem writeDuty_tickIndex (s : State) : (writeDuty s).tickIndex = (s.tickIndex + 1) % s.cfg.sineSamples := rfl
@[simp] theorem writeDuty_sineTable (s : State) : (writeDuty s).sineTable = s.sineTable := by rw [writeDuty_eq]
@[simp] theorem writeDuty_bridgeState (s : State) : (writeDuty s).bridgeState = s.bridgeState := by rw [writeDuty_eq]
@[simp] theorem writeDuty_cfg (s : State) : (writeDuty s).cfg = s.cfg := by rw [writeDuty_eq]

@[simp] theorem writeDuty_tmr (s : State) (u : TimerId) :
    (writeDuty s).tmr u = { s.tmr u with ccrPre := BitVec.ofNat 16 (currentDuty s) } := by
  rw [writeDuty_eq]
  cases u <;> rfl

theorem DriveStep.cfg_eq (h : DriveStep s e d) : d.cfg = s.cfg := by
  cases h with
  | tickWrites => exact writeDuty_cfg _
  | update | count => exact mapTimer_cfg ..
  | _ => rfl

theorem DriveStep.arr_eq (h : DriveStep s e d) (u : TimerId) : (d.tmr u).arr = (s.tmr u).arr := by
  cases h with
  | start | tickStops => cases u <;> rfl
  | tickWrites => rw [writeDuty_tmr]; rfl
  | update v | count v => rw [mapTimer_tmr]; split <;> simp_all
  | _ => rfl

/-- Only an INIT with the bridge stopped writes the table. -/
theorem DriveStep.sineTable_cases (h : DriveStep s e d) :
    d.sineTable = s.sineTable ∨
      e = .op .task (encode .init) ∧ s.bridgeState = .stopped ∧ d.sineTable = tableEntries s.cfg := by
  cases h with
  | init hb => exact .inr ⟨rfl, hb, rfl⟩
  | tickWrites => exact .inl (writeDuty_sineTable _)
  | update | count => exact .inl (mapTimer_sineTable ..)
  | _ => exact .inl rfl

/-- Only a START from Idle runs a stopped bridge. -/
theorem DriveStep.eq_start (h : DriveStep s e d) (hs : s.bridgeState = .stopped) (hd : d.bridgeState = .running) :
    e = .op .task (encode .start) ∧ s.phase = .idle ∧ ∀ u, d.tmr u = (s.tmr u).started := by
  have kept (hsame : d.bridgeState = s.bridgeState) : False := by simp [hsame, hs] at hd
  cases h with
  | start hp => exact ⟨rfl, hp, fun u => by cases u <;> rfl⟩
  | tickStops => cases hd
  | tickWrites => exact (kept (writeDuty_bridgeState _)).elim
  | update | count => exact (kept (mapTimer_bridgeState ..)).elim
  | _ => exact (kept rfl).elim

/-- Only the last TICK of a soft stop stops a running bridge. -/
theorem DriveStep.eq_tickStops (h : DriveStep s e d) (hs : s.bridgeState = .running)
    (hd : d.bridgeState = .stopped) :
    e = .op .tick (encode .tick) ∧ s.phase = .stopping ∧ s.amp ≤ 1 ∧ d.phase = .idle ∧
      ∀ u, d.tmr u = (s.tmr u).stopped := by
  have kept (hsame : d.bridgeState = s.bridgeState) : False := by simp [hsame, hs] at hd
  cases h with
  | tickStops hp ha => exact ⟨rfl, hp, ha, rfl, fun u => by cases u <;> rfl⟩
  | start => cases hd
  | tickWrites => exact (kept (writeDuty_bridgeState _)).elim
  | update | count => exact (kept (mapTimer_bridgeState ..)).elim
  | _ => exact (kept rfl).elim

/-- A step that keeps the phase Starting does not lower the amplitude; one that keeps it Stopping does not raise it. -/
theorem DriveStep.amp_monotone (h : DriveStep s e d) :
    (s.phase = .starting → d.phase = .starting → s.amp ≤ d.amp) ∧
      (s.phase = .stopping → d.phase = .stopping → d.amp ≤ s.amp) := by
  cases h with
  | init | tickStops => exact ⟨fun _ => nofun, fun _ => nofun⟩
  | start hp | restart hp => simp [hp]
  | stop => exact ⟨fun _ => nofun, fun _ _ => le_rfl⟩
  | tickWrites hp hr =>
    rw [writeDuty_phase, writeDuty_amp]
    obtain ⟨-, rfl⟩ | ⟨-, -, -, ha⟩ := hr
    · exact ⟨fun _ => nofun, fun _ => nofun⟩
    · constructor <;> intro hs _ <;> rw [hs, rampStep] at ha <;> dsimp only <;> omega
  | update | count => simp
  | keep => exact ⟨fun _ _ => le_rfl, fun _ _ => le_rfl⟩

end

end Sys2Proof.Machine
end

section
/-! The invariant across a step: the ring, and each clause about the drive side across `DriveStep`. -/

namespace Sys2Proof.Machine

open Sys2Proof

section

variable {s t d : State} {e : Event}

/-! ### The ring -/

/-- Bytes are consumed, one byte is received, the ring is emptied, or it stays. -/
theorem exec_ring {i : Instr} (h : exec i s = .next t) :
    t.rbBuf = s.rbBuf ∧ t.rbHead = s.rbHead ∧
        (t.rbTail = s.rbTail ∨ ∃ n, t.rbTail = (s.rbTail + n) % s.cfg.cap) ∨
      (∃ b, t.rbBuf = s.rbBuf.write (s.rbHead % s.cfg.cap) b ∧ t.rbHead = (s.rbHead + 1) % s.cfg.cap ∧
        t.rbTail = s.rbTail) ∨
      t.rbBuf = s.rbBuf ∧ t.rbHead = 0 ∧ t.rbTail = 0 := by
  cases i with
  | init =>
    obtain ⟨-, rfl⟩ | ⟨-, rfl⟩ := execInit_next h
    · exact .inl ⟨rfl, rfl, .inl rfl⟩
    · exact .inr (.inr ⟨rfl, rfl, rfl⟩)
  | byteRx b =>
    obtain rfl := execByteRx_next h
    exact .inr (.inl ⟨b, rfl, rfl, rfl⟩)
  | decode =>
    obtain ⟨-, rfl⟩ | ⟨-, -, rfl⟩ | ⟨-, -, rfl⟩ := execDecode_next h
    · exact .inl ⟨rfl, rfl, .inl rfl⟩
    · exact .inl ⟨rfl, rfl, .inr ⟨10, rfl⟩⟩
    · exact .inl ⟨rfl, rfl, .inr ⟨1, rfl⟩⟩
  | cmdRead =>
    obtain ⟨-, rfl⟩ | ⟨-, rfl⟩ := execCmdRead_next h <;> exact .inl ⟨rfl, rfl, .inl rfl⟩
  | start =>
    obtain ⟨-, rfl⟩ | ⟨-, -, rfl⟩ | ⟨-, rfl⟩ := execStart_next h
    · rw [bridgeStartSeq_eq]
      exact .inl ⟨rfl, rfl, .inl rfl⟩
    · exact .inl ⟨rfl, rfl, .inl rfl⟩
    · exact .inl ⟨rfl, rfl, .inl rfl⟩
  | stop =>
    obtain ⟨-, rfl⟩ | ⟨-, rfl⟩ := execStop_next h <;> exact .inl ⟨rfl, rfl, .inl rfl⟩
  | tick =>
    obtain ⟨-, rfl⟩ | ⟨-, -, rfl⟩ | ⟨-, p, a, -, rfl⟩ := execTick_next h
    · exact .inl ⟨rfl, rfl, .inl rfl⟩
    · rw [bridgeStopSeq_eq]
      exact .inl ⟨rfl, rfl, .inl rfl⟩
    · rw [writeDuty_eq]
      exact .inl ⟨rfl, rfl, .inl rfl⟩

theorem DriveStep.tickIndex_lt (h : DriveStep s e d) (hN : 1 ≤ s.cfg.sineSamples)
    (ht : s.tickIndex < s.cfg.sineSamples) : d.tickIndex < d.cfg.sineSamples := by
  rw [h.cfg_eq]
  cases h with
  | init => exact hN
  | tickWrites => rw [writeDuty_tickIndex]; exact Nat.mod_lt _ hN
  | update | count => rw [mapTimer_tickIndex]; exact ht
  | _ => exact ht

/-- A step that leaves the ring alone has to move the table index only within its range. -/
theorem IndicesInRange.of_ring_eq (h : IndicesInRange s) (hcfg : t.cfg = s.cfg) (hbuf : t.rbBuf = s.rbBuf)
    (hhead : t.rbHead = s.rbHead) (htail : t.rbTail = s.rbTail) (htick : t.tickIndex < t.cfg.sineSamples) :
    IndicesInRange t := by
  obtain ⟨h1, h2, h3, -⟩ := h
  exact ⟨by rw [hbuf, hcfg]; exact h1, by rw [hhead, hcfg]; exact h2, by rw [htail, hcfg]; exact h3, htick⟩

theorem exec_indices {i : Instr} (hok : s.cfg.ok = true) (h : IndicesInRange s) (he : exec i s = .next t)
    (hcfg : t.cfg = s.cfg) (htick : t.tickIndex < t.cfg.sineSamples) : IndicesInRange t := by
  obtain ⟨-, hcap, -⟩ := Config.ok_bounds hok
  have hpos : 0 < s.cfg.cap := by omega
  obtain ⟨hbuf, hhead, htail | ⟨n, htail⟩⟩ | ⟨b, hbuf, hhead, htail⟩ | ⟨hbuf, hhead, htail⟩ := exec_ring he
  · exact h.of_ring_eq hcfg hbuf hhead htail htick
  · exact ⟨by rw [hbuf, hcfg]; exact h.ringWf, by rw [hhead, hcfg]; exact h.head,
      by rw [htail, hcfg]; exact Nat.mod_lt _ hpos, htick⟩
  · exact ⟨by rw [hbuf, hcfg]; exact Memory.write_wf h.ringWf (Nat.mod_lt _ hpos),
      by rw [hhead, hcfg]; exact Nat.mod_lt _ hpos, by rw [htail, hcfg]; exact h.tail, htick⟩
  · exact ⟨by rw [hbuf, hcfg]; exact h.ringWf, by rw [hhead, hcfg]; exact hpos,
      by rw [htail, hcfg]; exact hpos, htick⟩

/-- Every entry taken keeps the indices in their ranges and the ring in canonical form. -/
theorem takeEvent_indices (hok : s.cfg.ok = true) (h : IndicesInRange s) (he : takeEvent e s = .next t) :
    IndicesInRange t := by
  obtain ⟨hN, -⟩ := Config.ok_bounds hok
  obtain ⟨d, hd, heq⟩ := takeEvent_drive he
  have hcfg : t.cfg = s.cfg := (congrArg Drive.cfg heq).trans hd.cfg_eq
  have htick : t.tickIndex < t.cfg.sineSamples := by
    rw [show t.tickIndex = d.tickIndex from congrArg Drive.tickIndex heq,
      show t.cfg = d.cfg from congrArg Drive.cfg heq]
    exact hd.tickIndex_lt hN h.tick
  obtain ⟨r, rfl⟩ | ⟨i, rfl, hi⟩ | ⟨u, rfl, -, rfl⟩ | ⟨u, c, rfl, -, -, rfl⟩ | ⟨rfl, rfl⟩ := takeEvent_cases he
  · exact h.of_ring_eq hcfg rfl rfl rfl htick
  · exact exec_indices hok h hi hcfg htick
  · exact h.of_ring_eq hcfg (mapTimer_rbBuf ..) (mapTimer_rbHead ..) (mapTimer_rbTail ..) htick
  · exact h.of_ring_eq hcfg (mapTimer_rbBuf ..) (mapTimer_rbHead ..) (mapTimer_rbTail ..) htick
  · exact h.of_ring_eq hcfg rfl rfl rfl htick

/-! ### Phase, bridge and enable bits -/

theorem TickRamp.ne_idle {p : Phase} {a : Nat} (h : TickRamp s p a) (hs : s.phase ≠ .idle) : p ≠ .idle := by
  obtain ⟨-, rfl⟩ | ⟨rfl, -⟩ := h
  · simp
  · exact hs

theorem mapTimer_forall {P : Timer → Prop} {f : Timer → Timer} {u : TimerId} (h : ∀ v, P (s.tmr v))
    (hf : P (f (s.tmr u))) (v : TimerId) : P ((mapTimer u f s).tmr v) := by
  rw [mapTimer_tmr]
  split
  · exact hf
  · exact h v

theorem PhaseMatchesBridge.of_running (hp : s.phase ≠ .idle) (hb : s.bridgeState = .running)
    (he : ∀ u, (s.tmr u).enables true) : PhaseMatchesBridge s :=
  ⟨by simp [hp, hb], by simp [hb], fun _ => he⟩

theorem PhaseMatchesBridge.of_stopped (hp : s.phase = .idle) (hb : s.bridgeState = .stopped)
    (he : ∀ u, (s.tmr u).enables false) : PhaseMatchesBridge s :=
  ⟨by simp [hp, hb], fun _ => he, by simp [hb]⟩

/-- Only a running bridge has a timer that counts. -/
theorem PhaseMatchesBridge.counts {u : TimerId} (h : PhaseMatchesBridge s) (hc : (s.tmr u).cen = true) :
    s.phase ≠ .idle ∧ s.bridgeState = .running ∧ ∀ v, (s.tmr v).enables true := by
  have hb : s.bridgeState = .running := by
    cases hb : s.bridgeState
    · obtain ⟨hcen, -⟩ := h.stopped hb u
      simp [hcen] at hc
    · rfl
  exact ⟨by simp [h.idleIff, hb], hb, h.running hb⟩

theorem DriveStep.phaseMatchesBridge (h : DriveStep s e d) (hs : PhaseMatchesBridge s) : PhaseMatchesBridge d := by
  have enabled (hp : s.phase ≠ .idle) : ∀ u, (s.tmr u).enables true := hs.running (hs.runs hp)
  cases h with
  | keep => exact hs
  | init hb => exact .of_stopped rfl hb (hs.stopped hb)
  | start => exact .of_running nofun rfl fun u => by cases u <;> exact ⟨rfl, rfl, rfl, rfl⟩
  | restart hp =>
    have hp : s.phase ≠ .idle := by simp [hp]
    exact .of_running nofun (hs.runs hp) (enabled hp)
  | stop hp =>
    have hp : s.phase ≠ .idle := by rcases hp with hp | hp <;> simp [hp]
    exact .of_running nofun (hs.runs hp) (enabled hp)
  | tickStops => exact .of_stopped rfl rfl fun u => by cases u <;> exact ⟨rfl, rfl, rfl, rfl⟩
  | tickWrites hp hr =>
    refine .of_running ?_ ?_ fun u => ?_
    · rw [writeDuty_phase]; exact hr.ne_idle hp
    · rw [writeDuty_bridgeState]; exact hs.runs hp
    · rw [writeDuty_tmr]; exact enabled hp u
  | update u hc =>
    obtain ⟨hp, hb, he⟩ := hs.counts hc
    exact .of_running (by simpa using hp) (by simpa using hb) (mapTimer_forall (P := (Timer.enables · true)) he (he u))
  | count u c hc =>
    obtain ⟨hp, hb, he⟩ := hs.counts hc
    exact .of_running (by simpa using hp) (by simpa using hb) (mapTimer_forall (P := (Timer.enables · true)) he (he u))

/-! ### The amplitude -/

theorem DriveStep.amplitudeInRange (h : DriveStep s e d) (hR : 1 ≤ s.cfg.rampTicks) (hs : AmplitudeInRange s) :
    AmplitudeInRange d := by
  obtain ⟨hle, hidle, hstarting, hrunning⟩ := hs
  cases h with
  | keep => exact ⟨hle, hidle, hstarting, hrunning⟩
  | init | tickStops => exact ⟨Nat.zero_le _, fun _ => rfl, nofun, nofun⟩
  | start | restart => exact ⟨Nat.zero_le _, nofun, fun _ => hR, nofun⟩
  | stop => exact ⟨hle, nofun, nofun, nofun⟩
  | tickWrites hp hr =>
    have hne := hr.ne_idle hp
    obtain ⟨rfl, rfl⟩ | ⟨rfl, -, hlt, ha⟩ := hr <;> constructor <;>
      simp only [writeDuty_phase, writeDuty_amp, writeDuty_cfg]
    · exact le_rfl
    · exact nofun
    · exact nofun
    · exact fun _ => trivial
    · exact hlt.le
    · exact fun h => absurd h hne
    · exact fun _ => hlt
    · intro h
      have := hrunning h
      rw [h, rampStep] at ha
      omega
  | update | count =>
    constructor <;> simp only [mapTimer_phase, mapTimer_amp, mapTimer_cfg] <;> assumption

/-! ### Counters and compare values -/

theorem DriveStep.count_le (h : DriveStep s e d) (hs : ∀ u, (s.tmr u).cnt.toNat ≤ s.cfg.arr) (u : TimerId) :
    (d.tmr u).cnt.toNat ≤ d.cfg.arr := by
  rw [h.cfg_eq]
  cases h with
  | start | tickStops => cases u <;> exact Nat.zero_le _
  | tickWrites => rw [writeDuty_tmr]; exact hs u
  | update v => exact mapTimer_forall (P := fun x => x.cnt.toNat ≤ s.cfg.arr) hs (hs v) u
  | count v c hc hle => exact mapTimer_forall (P := fun x => x.cnt.toNat ≤ s.cfg.arr) hs hle u
  | _ => exact hs u

/-- The duty of a tick is at most ARR (44_modulator.md R177). -/
theorem Inv.currentDuty_le {p : Phase} {a : Nat} (h : Inv s) (ha : a ≤ s.cfg.rampTicks) :
    currentDuty { s with amp := a, phase := p } ≤ s.cfg.arr := by
  obtain ⟨-, -, -, -, -, hR⟩ := Config.ok_bounds h.config
  obtain ⟨T, hT, hle⟩ := h.entry
  have hentry : sineEntry { s with amp := a, phase := p } = T := by simp [sineEntry, hT]
  unfold currentDuty
  rw [hentry]
  exact (duty_le _ _ _ _ hR ha).trans hle

theorem TickRamp.le {p : Phase} {a : Nat} (h : TickRamp s p a) : a ≤ s.cfg.rampTicks := by
  obtain ⟨rfl, -⟩ | ⟨-, -, h, -⟩ := h
  · exact le_rfl
  · exact h.le

/-- The bounds, with the value that both preloads hold. -/
theorem comparesBounded_iff :
    ComparesBounded s ↔
      ∃ v : Half, v.toNat ≤ s.cfg.arr ∧ ∀ u, (s.tmr u).ccrPre = v ∧ (s.tmr u).ccrAct.toNat ≤ s.cfg.arr := by
  constructor
  · rintro ⟨hsame, hpre, hact⟩
    refine ⟨s.tmrA.ccrPre, hpre, fun u => ⟨?_, hact u⟩⟩
    cases u
    · rfl
    · exact hsame.symm
  · rintro ⟨v, hv, hu⟩
    have hA : s.tmrA.ccrPre = v := (hu .A).1
    have hB : s.tmrB.ccrPre = v := (hu .B).1
    exact ⟨hA.trans hB.symm, hA ▸ hv, fun u => (hu u).2⟩

/-- BridgeStartSeq leaves compare values of 0 (43_bridge_driver.md R148). -/
theorem ComparesBounded.of_started (h : ∀ u, t.tmr u = (s.tmr u).started) : ComparesBounded t :=
  comparesBounded_iff.mpr ⟨0#16, Nat.zero_le _, fun u => by rw [h u]; exact ⟨rfl, Nat.zero_le _⟩⟩

/-- What the compare values of a started block meet is kept by every step, also by those after the stop. -/
theorem DriveStep.comparesBounded (h : DriveStep s e d) (hI : Inv s) (hs : ComparesBounded s) :
    ComparesBounded d := by
  obtain ⟨v, hv, hu⟩ := comparesBounded_iff.mp hs
  refine comparesBounded_iff.mpr ?_
  rw [h.cfg_eq]
  cases h with
  | start => exact ⟨0#16, Nat.zero_le _, fun u => by cases u <;> exact ⟨rfl, Nat.zero_le _⟩⟩
  | tickStops => exact ⟨v, hv, fun u => by cases u; exacts [hu .A, hu .B]⟩
  | tickWrites hp hr =>
    refine ⟨_, ?_, fun u => by rw [writeDuty_tmr]; exact ⟨rfl, (hu u).2⟩⟩
    exact (BitVec.toNat_ofNat .. ▸ Nat.mod_le _ _).trans (hI.currentDuty_le hr.le)
  | update u =>
    exact ⟨v, hv, mapTimer_forall (P := fun x => x.ccrPre = v ∧ x.ccrAct.toNat ≤ s.cfg.arr) hu
      ⟨(hu u).1, (hu u).1 ▸ hv⟩⟩
  | count u c =>
    exact ⟨v, hv, mapTimer_forall (P := fun x => x.ccrPre = v ∧ x.ccrAct.toNat ≤ s.cfg.arr) hu (hu u)⟩
  | _ => exact ⟨v, hv, hu⟩

/-- The compare values while the bridge runs: a START from Idle zeroes them, every other step keeps their bounds. -/
theorem DriveStep.compares (h : DriveStep s e d) (hI : Inv s) (hd : d.bridgeState = .running) :
    ComparesBounded d := by
  cases hb : s.bridgeState with
  | running => exact h.comparesBounded hI (hI.compares hb)
  | stopped =>
    obtain ⟨-, -, hu⟩ := h.eq_start hb hd
    exact .of_started hu

/-! ### The invariant -/

theorem PhaseMatchesBridge.of_drive_eq (h : PhaseMatchesBridge d) (hd : t.drive = d.drive) :
    PhaseMatchesBridge t := by
  have hphase : t.phase = d.phase := congrArg Drive.phase hd
  have hbridge : t.bridgeState = d.bridgeState := congrArg Drive.bridgeState hd
  constructor <;> simp only [hphase, hbridge, tmr_eq_of_drive_eq hd]
  exacts [h.idleIff, h.stopped, h.running]

theorem AmplitudeInRange.of_drive_eq (h : AmplitudeInRange d) (hd : t.drive = d.drive) : AmplitudeInRange t := by
  have hphase : t.phase = d.phase := congrArg Drive.phase hd
  have hamp : t.amp = d.amp := congrArg Drive.amp hd
  have hcfg : t.cfg = d.cfg := congrArg Drive.cfg hd
  constructor <;> simp only [hphase, hamp, hcfg]
  exacts [h.le, h.idle, h.starting, h.running]

theorem ComparesBounded.of_drive_eq (h : ComparesBounded d) (hd : t.drive = d.drive) : ComparesBounded t := by
  have hcfg : t.cfg = d.cfg := congrArg Drive.cfg hd
  rw [comparesBounded_iff] at h ⊢
  simpa only [hcfg, tmr_eq_of_drive_eq hd] using h

/-- A change of the drive side, with the indices in range after it, keeps the invariant. -/
theorem Inv.of_driveStep (hs : Inv s) (h : DriveStep s e d) (hd : t.drive = d.drive) (hi : IndicesInRange t) :
    Inv t where
  config := by
    rw [show t.cfg = d.cfg from congrArg Drive.cfg hd, h.cfg_eq]
    exact hs.config
  indices := hi
  table := by
    rw [show t.sineTable = d.sineTable from congrArg Drive.sineTable hd,
      show t.cfg = d.cfg from congrArg Drive.cfg hd, h.cfg_eq]
    obtain ht | ⟨-, -, ht⟩ := h.sineTable_cases
    · rw [ht, hs.table]
    · exact ht
  bridge := (h.phaseMatchesBridge hs.bridge).of_drive_eq hd
  amplitude :=
    have ⟨_, _, _, _, _, hR⟩ := Config.ok_bounds hs.config
    (h.amplitudeInRange hR hs.amplitude).of_drive_eq hd
  arr u := by
    rw [tmr_eq_of_drive_eq hd, h.arr_eq, show t.cfg = d.cfg from congrArg Drive.cfg hd, h.cfg_eq]
    exact hs.arr u
  count u := by
    rw [tmr_eq_of_drive_eq hd, show t.cfg = d.cfg from congrArg Drive.cfg hd]
    exact h.count_le hs.count u
  compares hb := (h.compares hs ((congrArg Drive.bridgeState hd).symm.trans hb)).of_drive_eq hd

theorem takeEvent_keeps_inv (hs : Inv s) (h : takeEvent e s = .next t) : Inv t := by
  obtain ⟨d, hd, heq⟩ := takeEvent_drive h
  exact hs.of_driveStep hd heq (takeEvent_indices hs.config hs.indices h)

/-! ### From an entry taken to a step -/

theorem IndicesInRange.withAgenda (h : IndicesInRange s) (a : List Event) :
    IndicesInRange { s with agenda := a } := ⟨h.ringWf, h.head, h.tail, h.tick⟩

theorem Inv.withAgenda (h : Inv s) (a : List Event) : Inv { s with agenda := a } := h.congr rfl

theorem cfg_ok_of_step {s t : State} (h : step s = .next t) : s.cfg.ok = true := by
  obtain ⟨hl, -⟩ := step_next h
  simp only [State.live, Bool.and_eq_true] at hl
  exact hl.1.1

/-- Every step keeps the invariant (10_state.md section 8). -/
theorem step_keeps_inv (hs : Inv s) (h : step s = .next t) : Inv t := by
  obtain ⟨-, ⟨-, rfl⟩ | ⟨e, rest, -, he⟩⟩ := step_next h
  · exact hs
  · exact takeEvent_keeps_inv (hs.withAgenda rest) he

theorem step_keeps_indices (hs : IndicesInRange s) (h : step s = .next t) : IndicesInRange t := by
  have hok := cfg_ok_of_step h
  obtain ⟨-, ⟨-, rfl⟩ | ⟨e, rest, -, he⟩⟩ := step_next h
  · exact hs
  · exact takeEvent_indices (s := { s with agenda := rest }) hok (hs.withAgenda rest) he

/-- A step keeps the drive side, or the first entry of the agenda changes it by `DriveStep`. -/
theorem step_drive (h : step s = .next t) :
    t = s ∨ ∃ e rest d, s.agenda.head? = some e ∧ DriveStep { s with agenda := rest } e d ∧ t.drive = d.drive := by
  obtain ⟨-, ⟨-, rfl⟩ | ⟨e, rest, ha, he⟩⟩ := step_next h
  · exact .inl rfl
  · obtain ⟨d, hd, heq⟩ := takeEvent_drive he
    exact .inr ⟨e, rest, d, by rw [ha]; rfl, hd, heq⟩

theorem step_keeps_comparesBounded (hs : ComparesBounded s) (hI : Inv s) (h : step s = .next t) : ComparesBounded t := by
  obtain rfl | ⟨e, rest, d, -, hd, heq⟩ := step_drive h
  · exact hs
  · exact (hd.comparesBounded (hI.withAgenda rest) (hs.of_drive_eq rfl)).of_drive_eq heq

theorem exec_start_bridgeState (h : exec .start s = .next t) (hs : PhaseMatchesBridge s) :
    t.bridgeState = .running := by
  obtain ⟨-, rfl⟩ | ⟨hp, -, rfl⟩ | ⟨hp, rfl⟩ := execStart_next h
  · rfl
  · exact hs.runs (by simp [hp])
  · exact hs.runs hp

/-- A completed START leaves the bridge running. -/
theorem bridgeState_of_start_step (hs : Inv s) (ha : s.agenda.head? = some (.op .task (encode .start)))
    (h : step s = .next t) : t.bridgeState = .running := by
  obtain ⟨-, ⟨hnil, -⟩ | ⟨e, rest, hcons, he⟩⟩ := step_next h
  · simp [hnil] at ha
  · obtain rfl : e = .op .task (encode .start) := by simpa [hcons] using ha
    have hdecode : decode (encode .start) = .op .start := by decide
    rw [takeEvent, issue_owned (g := .task) hdecode rfl] at he
    exact exec_start_bridgeState he (hs.withAgenda rest).bridge

theorem cfg_of_step (h : step s = .next t) : t.cfg = s.cfg := by
  obtain rfl | ⟨e, rest, d, -, hd, heq⟩ := step_drive h
  · rfl
  · exact (congrArg Drive.cfg heq).trans hd.cfg_eq

/-! ### Reached states -/

theorem Inv.launch {c : Config} {u : Launch} (hc : c.ok = true) (hu : u.ok c = true) : Inv (State.launch c u) := by
  obtain ⟨hN, hcap, -, -, -, hR⟩ := Config.ok_bounds hc
  simp only [Launch.ok, Bool.and_eq_true, decide_eq_true_eq] at hu
  obtain ⟨⟨hbuf, hA⟩, hB⟩ := hu
  exact
    { config := hc
      indices := ⟨hbuf, show 0 < c.cap by omega, show 0 < c.cap by omega, hN⟩
      table := rfl
      bridge := .of_stopped rfl rfl fun t => by cases t <;> exact ⟨rfl, rfl, rfl, rfl⟩
      amplitude := ⟨Nat.zero_le _, fun _ => rfl, nofun, nofun⟩
      arr := fun t => by cases t <;> rfl
      count := fun t => by cases t; exacts [hA, hB]
      compares := nofun }

variable {c : Config} {u : Launch} {run : List Event} {n : Nat}

theorem ReachedIn.inv (h : ReachedIn c u run n s) : Inv s := by
  obtain ⟨hc, hu, hrun⟩ := h
  exact run_keeps (fun _ _ => step_keeps_inv) ((Inv.launch hc hu).withAgenda run) hrun

theorem ReachedIn.cfg_eq (h : ReachedIn c u run n s) : s.cfg = c := by
  obtain ⟨-, -, hrun⟩ := h
  exact run_keeps (P := fun s => s.cfg = c) (fun _ _ hs h => (cfg_of_step h).trans hs) rfl hrun

end

end Sys2Proof.Machine
end

section
/-! 10_state.md: the statements about the drive side and the invariant. -/

namespace Sys2Proof.Machine

open Sys2Proof

/-- The gate enables of a leg are the bridge state (10_state.md R34, R38). -/
theorem PhaseMatchesBridge.outputs {s : State} (h : PhaseMatchesBridge s) (u : TimerId) :
    (outMainEn s u = true ↔ s.bridgeState = .running) ∧ (outCompEn s u = true ↔ s.bridgeState = .running) := by
  cases hb : s.bridgeState with
  | stopped =>
    obtain ⟨-, -, -, hmoe⟩ := h.stopped hb u
    simp [outMainEn, outCompEn, hmoe]
  | running =>
    obtain ⟨-, hcce, hccne, hmoe⟩ := h.running hb u
    simp [outMainEn, outCompEn, hmoe, hcce, hccne]

theorem PhaseMatchesBridge.stopped_of_output_off {s : State} {u : TimerId} (h : PhaseMatchesBridge s)
    (hoff : outMainEn s u = false ∨ outCompEn s u = false) : s.bridgeState = .stopped := by
  obtain ⟨hmain, hcomp⟩ := h.outputs u
  cases hb : s.bridgeState with
  | stopped => rfl
  | running => simp [hmain.mpr hb, hcomp.mpr hb] at hoff

theorem PhaseMatchesBridge.running_of_output_on {s : State} {u : TimerId} (h : PhaseMatchesBridge s)
    (hon : outMainEn s u = true ∨ outCompEn s u = true) : s.bridgeState = .running :=
  hon.elim (h.outputs u).1.mp (h.outputs u).2.mp

/-- A step that runs a stopped bridge is a START in Idle. -/
theorem step_starts_bridge {s t : State} (h : step s = .next t) (hs : s.bridgeState = .stopped)
    (ht : t.bridgeState = .running) :
    s.agenda.head? = some (.op .task (encode .start)) ∧ s.phase = .idle ∧
      ∀ u, t.tmr u = (s.tmr u).started := by
  obtain rfl | ⟨e, rest, d, he, hd, heq⟩ := step_drive h
  · simp [hs] at ht
  · obtain ⟨rfl, hp, hu⟩ := hd.eq_start hs ((congrArg Drive.bridgeState heq).symm.trans ht)
    exact ⟨he, hp, fun u => (tmr_eq_of_drive_eq heq u).trans ((hu u).trans (by cases u <;> rfl))⟩

/-- A step that stops a running bridge is the last TICK of a soft stop. -/
theorem step_stops_bridge {s t : State} (h : step s = .next t) (hs : s.bridgeState = .running)
    (ht : t.bridgeState = .stopped) :
    s.agenda.head? = some (.op .tick (encode .tick)) ∧ s.phase = .stopping ∧ s.amp ≤ 1 ∧ t.phase = .idle ∧
      ∀ u, t.tmr u = (s.tmr u).stopped := by
  obtain rfl | ⟨e, rest, d, he, hd, heq⟩ := step_drive h
  · simp [hs] at ht
  · obtain ⟨rfl, hp, ha, hidle, hu⟩ := hd.eq_tickStops hs ((congrArg Drive.bridgeState heq).symm.trans ht)
    exact ⟨he, hp, ha, (congrArg Drive.phase heq).trans hidle,
      fun u => (tmr_eq_of_drive_eq heq u).trans ((hu u).trans (by cases u <;> rfl))⟩

/-- No operation touches the halted bit, and only a refused INIT the other. -/
theorem exec_bits {i : Instr} {s t : State} (h : exec i s = .next t) :
    t.halted = s.halted ∧ (t.refused = s.refused ∨ t.refused = true) := by
  cases i with
  | init => obtain ⟨-, rfl⟩ | ⟨-, rfl⟩ := execInit_next h <;> simp
  | byteRx b => obtain rfl := execByteRx_next h; simp
  | decode => obtain ⟨-, rfl⟩ | ⟨-, -, rfl⟩ | ⟨-, -, rfl⟩ := execDecode_next h <;> simp
  | cmdRead => obtain ⟨-, rfl⟩ | ⟨-, rfl⟩ := execCmdRead_next h <;> simp
  | start => obtain ⟨-, rfl⟩ | ⟨-, -, rfl⟩ | ⟨-, rfl⟩ := execStart_next h <;> simp [bridgeStartSeq_eq]
  | stop => obtain ⟨-, rfl⟩ | ⟨-, rfl⟩ := execStop_next h <;> simp
  | tick =>
    obtain ⟨-, rfl⟩ | ⟨-, -, rfl⟩ | ⟨-, p, a, -, rfl⟩ := execTick_next h <;> simp [bridgeStopSeq_eq, writeDuty_eq]

theorem takeEvent_keeps_bits {e : Event} {s t : State} (h : takeEvent e s = .next t) :
    (s.refused = true → t.refused = true) ∧ (s.halted = true → t.halted = true) := by
  obtain ⟨r, rfl⟩ | ⟨i, -, hi⟩ | ⟨u, -, -, rfl⟩ | ⟨u, c, -, -, -, rfl⟩ | ⟨-, rfl⟩ := takeEvent_cases h
  · exact ⟨fun _ => rfl, id⟩
  · obtain ⟨hh, hr | hr⟩ := exec_bits hi
    · exact ⟨hr.trans, hh.trans⟩
    · exact ⟨fun _ => hr, hh.trans⟩
  · simp
  · simp
  · exact ⟨id, fun _ => rfl⟩

/-! ### The receive side -/

/-- The values that BYTE_RX, DECODE and CMD_READ leave alone (10_state.md R37). -/
def KeepsAllButReceiveSide (s t : State) : Prop :=
  t.phase = s.phase ∧ t.amp = s.amp ∧ t.tickIndex = s.tickIndex ∧ t.sineTable = s.sineTable ∧
    t.bridgeState = s.bridgeState ∧ t.tmrA = s.tmrA ∧ t.tmrB = s.tmrB ∧ t.refused = s.refused ∧
    t.halted = s.halted ∧ t.cfg = s.cfg ∧ t.agenda = s.agenda ∧ t.refusalReason = s.refusalReason ∧
    t.drawIndex = s.drawIndex

theorem exec_byteRx_frame {d : Byte} {s t : State} (h : exec (.byteRx d) s = .next t) :
    KeepsAllButReceiveSide s t ∧ t.rbTail = s.rbTail ∧ t.cmdFull = s.cmdFull ∧ t.cmdValue = s.cmdValue := by
  obtain rfl := execByteRx_next h
  simp [KeepsAllButReceiveSide]

theorem exec_decode_frame {s t : State} (h : exec .decode s = .next t) :
    KeepsAllButReceiveSide s t ∧ t.rbHead = s.rbHead ∧ ∀ j, memRead t j = memRead s j := by
  obtain ⟨-, rfl⟩ | ⟨-, -, rfl⟩ | ⟨-, -, rfl⟩ := execDecode_next h <;> simp [KeepsAllButReceiveSide, memRead]

theorem exec_cmdRead_frame {s t : State} (h : exec .cmdRead s = .next t) :
    KeepsAllButReceiveSide s t ∧ t.rbHead = s.rbHead ∧ t.rbTail = s.rbTail ∧ t.cmdValue = s.cmdValue ∧
      ∀ j, memRead t j = memRead s j := by
  obtain ⟨-, rfl⟩ | ⟨-, rfl⟩ := execCmdRead_next h <;> simp [KeepsAllButReceiveSide, memRead]

end Sys2Proof.Machine

open Sys2Proof Sys2Proof.Machine

/-- Settles O44: in a state that meets the invariant the enable bits follow the bridge state. -/
theorem gateEnablesFollowTheBridge : Obligations.GateEnablesFollowTheBridge :=
  fun _ u h => h.bridge.outputs u

/-- Settles O47: each clause on the drive side is kept by each change `DriveStep` names, the indices by `exec_ring`. -/
theorem stepKeepsTheInvariant : Obligations.StepKeepsTheInvariant :=
  fun _ _ => step_keeps_inv

/-- Settles O48: the bridge clause of the invariant, which launches meet and steps keep. -/
theorem reachablePhaseMatchesBridge : Obligations.ReachablePhaseMatchesBridge := by
  intro c d run n s h
  obtain ⟨hidle, hstopped, hrunning⟩ := h.inv.bridge
  exact ⟨hidle, hrunning, hstopped⟩

/-- Settles O49: the amplitude clause of the invariant, and that no step writes the configuration. -/
theorem reachableAmplitudeInRange : Obligations.ReachableAmplitudeInRange := by
  intro c d run n s h
  obtain ⟨hle, hidle, -, hrunning⟩ := h.inv.amplitude
  rw [h.cfg_eq] at hle hrunning
  exact ⟨Nat.zero_le _, hle, hidle, hrunning⟩

/-- Settles O50: a completed START leaves the bridge running and so the compare values bounded; from there
`ComparesBounded` is kept beside the invariant, also by the steps after the stop, where the invariant alone no longer
says it. -/
theorem comparesEqualOnceStarted : Obligations.ComparesEqualOnceStarted := by
  intro c d run m n s s' t hreach hhead hstep hrun
  have hI' := step_keeps_inv hreach.inv hstep
  have hc' := hI'.compares (bridgeState_of_start_step hreach.inv hhead hstep)
  obtain ⟨hI, hc⟩ := run_keeps (P := fun s => Inv s ∧ ComparesBounded s)
    (fun _ _ hs h => ⟨step_keeps_inv hs.1 h, step_keeps_comparesBounded hs.2 hs.1 h⟩) ⟨hI', hc'⟩ hrun
  have hcfg : t.cfg = c := run_keeps (P := fun s => s.cfg = c) (fun _ _ hs h => (cfg_of_step h).trans hs)
    ((cfg_of_step hstep).trans hreach.cfg_eq) hrun
  rw [← hcfg]
  exact ⟨hc.same, hc.pre, hc.act .A, hc.act .B⟩

/-- Settles O32: no change `DriveStep` names writes the configuration or a maximum count, and only INIT's the table. -/
theorem configurationAndTableAreConstant : Obligations.ConfigurationAndTableAreConstant := by
  intro s t h
  obtain rfl | ⟨e, rest, d, he, hd, heq⟩ := step_drive h
  · exact ⟨rfl, fun _ => rfl, .inl rfl⟩
  refine ⟨cfg_of_step h, fun u => ?_, ?_⟩
  · rw [tmr_eq_of_drive_eq heq, hd.arr_eq]
    cases u <;> rfl
  · rw [show t.sineTable = d.sineTable from congrArg Drive.sineTable heq, he]
    obtain ht | ⟨rfl, hb, ht⟩ := hd.sineTable_cases
    · exact .inl ht
    · exact .inr ⟨rfl, hb, ht⟩

/-- Settles O36: of the steps that stay in the phase only a tick moves the amplitude, and it moves it by `rampStep`. -/
theorem amplitudeIsMonotone : Obligations.AmplitudeIsMonotone := by
  intro s t h
  obtain rfl | ⟨e, rest, d, -, hd, heq⟩ := step_drive h
  · exact ⟨fun _ _ => le_rfl, fun _ _ => le_rfl⟩
  · rw [show t.phase = d.phase from congrArg Drive.phase heq, show t.amp = d.amp from congrArg Drive.amp heq]
    exact hd.amp_monotone

/-- Settles O46: each clause of the invariant at the reset values, for the example configuration among them. -/
theorem launchMeetsTheInvariant : Obligations.LaunchMeetsTheInvariant := by
  have hok : Config.default.ok = true := by decide +kernel
  have hzero : Launch.zero.ok Config.default = true := by decide
  refine ⟨fun c d hc hd => ⟨Inv.launch hc hd, ?_⟩, Inv.launch hok hzero, rfl, hok, hzero⟩
  simp [State.live, State.launch, hc]

/-- Settles O12: the reset values as `State.launch` gives them, and the draw that holds the given unspecified ones. -/
theorem launchHoldsTheResetValues : Obligations.LaunchHoldsTheResetValues := by
  constructor
  · intro c d
    refine ⟨_, rfl, rfl, rfl, rfl, rfl, rfl, rfl, rfl, rfl, fun t => ?_, rfl, rfl, rfl, rfl, rfl⟩
    cases t <;> exact ⟨rfl, rfl, rfl, rfl, rfl⟩
  · intro c m v cnt pre act
    refine ⟨⟨m, v, cnt .A, pre .A, act .A, cnt .B, pre .B, act .B⟩, rfl, rfl, fun t => ?_⟩
    cases t <;> exact ⟨rfl, rfl, rfl⟩

/-- Settles O45: before and after the step all four outputs say whether the bridge runs, so an output changes only where
the bridge state does, and only START from Idle and the last TICK of a soft stop change that. -/
theorem onlyStartEnablesOutputs : Obligations.OnlyStartEnablesOutputs := by
  intro s t u hI h
  have hs := hI.bridge
  have ht := (step_keeps_inv hI h).bridge
  constructor
  · intro hrise
    have hsb := hs.stopped_of_output_off (hrise.imp And.left And.left)
    have htb := ht.running_of_output_on (hrise.imp And.right And.right)
    obtain ⟨he, hp, hstarted⟩ := step_starts_bridge h hsb htb
    exact ⟨he, hp, fun x => ⟨(ht.outputs x).1.mpr htb, (ht.outputs x).2.mpr htb⟩,
      fun x => by rw [hstarted x]; exact ⟨rfl, rfl, rfl⟩⟩
  · intro hfall
    have hsb := hs.running_of_output_on (hfall.imp And.left And.left)
    have htb := ht.stopped_of_output_off (hfall.imp And.right And.right)
    obtain ⟨he, hp, ha, hidle, hstopped⟩ := step_stops_bridge h hsb htb
    refine ⟨he, hp, ha, hidle, fun x => ?_, fun x => by rw [hstopped x]; exact ⟨rfl, rfl⟩⟩
    simp [outMainEn, outCompEn, hstopped x, Timer.stopped]

/-- Settles O9: an entry taken keeps each bit or sets it, and a step is taken by a live block alone. -/
theorem modelBitsAreFinal : Obligations.ModelBitsAreFinal := by
  intro s t e
  refine ⟨takeEvent_keeps_bits, fun hbit => ⟨fun h => ?_, ?_⟩⟩
  · obtain ⟨hlive, -⟩ := step_next h
    rcases hbit with hbit | hbit <;> simp [State.live, hbit] at hlive
  · rcases hbit with hbit | hbit <;> simp [State.goodEnd, hbit]

/-- Settles O29: the frame of each of the three operations. -/
theorem receiveSideFrame : Obligations.ReceiveSideFrame := by
  rintro s t d i (rfl | rfl | rfl) h
  · obtain ⟨hkeep, hrest⟩ := exec_byteRx_frame h
    exact ⟨hkeep, fun _ => hrest, nofun, nofun⟩
  · obtain ⟨hkeep, hrest⟩ := exec_decode_frame h
    exact ⟨hkeep, nofun, fun _ => hrest, nofun⟩
  · obtain ⟨hkeep, hrest⟩ := exec_cmdRead_frame h
    exact ⟨hkeep, nofun, nofun, fun _ => hrest⟩

end

section
/-! Storage that holds nothing readable (10_state.md R36, R42): a step of a state and the step of the same state with
other ring contents and another command byte, as long as neither shows in an unread byte or a full slot. -/

namespace Sys2Proof.Machine

open Sys2Proof

/-- The state with other ring contents and another command byte. -/
def State.withStorage (s : State) (m : Memory) (v : Byte) : State := { s with rbBuf := m, cmdValue := v }

section

variable {s t : State} {m : Memory} {v : Byte} {e : Event}

/-! ### Operations that read neither the ring nor the slot -/

theorem rampStart_withStorage : rampStart (s.withStorage m v) = (rampStart s).withStorage m v := by
  cases hp : s.phase <;> cases hc : s.cfg.startWhileStopping <;> simp [rampStart, State.withStorage, hp, hc]

theorem rampStop_withStorage : rampStop (s.withStorage m v) = (rampStop s).withStorage m v := by
  cases hp : s.phase <;> simp [rampStop, State.withStorage, hp]

theorem bridgeStartSeq_withStorage : bridgeStartSeq (s.withStorage m v) = (bridgeStartSeq s).withStorage m v := by
  simp only [bridgeStartSeq_eq, State.withStorage]

theorem bridgeStopSeq_withStorage : bridgeStopSeq (s.withStorage m v) = (bridgeStopSeq s).withStorage m v := by
  simp only [bridgeStopSeq_eq, State.withStorage]

theorem advance_withStorage :
    advance (s.withStorage m v) = ((advance s).1.withStorage m v, (advance s).2) := by
  simp only [advance, State.withStorage, bridgeStopSeq_eq]
  split_ifs <;> rfl

theorem nextDraw_withStorage : nextDraw (s.withStorage m v) = (nextDraw s).withStorage m v := by
  cases hd : s.cfg.dutyRound <;> simp [nextDraw, State.withStorage, hd]

theorem writeDuty_withStorage : writeDuty (s.withStorage m v) = (writeDuty s).withStorage m v := by
  rw [writeDuty, nextDraw_withStorage]
  rfl

theorem mapTimer_withStorage {u : TimerId} {f : Timer → Timer} :
    mapTimer u f (s.withStorage m v) = (mapTimer u f s).withStorage m v := by
  cases u <;> rfl

/-- START, STOP, TICK and INIT do the same whatever the storage holds. -/
theorem exec_withStorage {i : Instr} (hi : i = .init ∨ i = .start ∨ i = .stop ∨ i = .tick)
    (h : exec i s = .next t) : exec i (s.withStorage m v) = .next (t.withStorage m v) := by
  obtain rfl | rfl | rfl | rfl := hi
  · have hb : (s.withStorage m v).bridgeState = s.bridgeState := rfl
    simp only [exec, execInit, hb] at h ⊢
    split at h <;> cases h <;> rfl
  · have hp : (s.withStorage m v).phase = s.phase := rfl
    simp only [exec, execStart, hp, bridgeStartSeq_withStorage, rampStart_withStorage] at h ⊢
    split at h <;> cases h <;> rfl
  · simp only [exec, execStop, rampStop_withStorage] at h ⊢
    cases h
    rfl
  · rw [exec] at h ⊢
    by_cases hp : s.phase = .idle
    · rw [execTick_idle hp] at h
      rw [execTick_idle (s := s.withStorage m v) hp]
      cases h
      rfl
    cases ha : advance s with
    | mk s1 stops =>
      have ha' : advance (s.withStorage m v) = (s1.withStorage m v, stops) := by rw [advance_withStorage, ha]
      cases stops with
      | true =>
        rw [execTick_stops hp ha] at h
        rw [execTick_stops (s := s.withStorage m v) hp ha']
        cases h
        rfl
      | false =>
        rw [execTick_writes hp ha] at h
        rw [execTick_writes (s := s.withStorage m v) hp ha', writeDuty_withStorage]
        cases h
        rfl

/-- The receive side, which the drive operations leave alone. -/
structure KeepsReceiveSide (s t : State) : Prop where
  rbBuf : t.rbBuf = s.rbBuf
  rbHead : t.rbHead = s.rbHead
  rbTail : t.rbTail = s.rbTail
  cmdFull : t.cmdFull = s.cmdFull
  cmdValue : t.cmdValue = s.cmdValue
  cfg : t.cfg = s.cfg

theorem mapTimer_keepsReceiveSide (u : TimerId) (f : Timer → Timer) (s : State) :
    KeepsReceiveSide s (mapTimer u f s) := by
  constructor <;> simp

/-- INIT empties the ring and the slot, if it is not refused; START, STOP and TICK leave them alone. -/
theorem exec_receiveSide {i : Instr} (hi : i = .init ∨ i = .start ∨ i = .stop ∨ i = .tick)
    (h : exec i s = .next t) : KeepsReceiveSide s t ∨ t.rbHead = t.rbTail ∧ t.cmdFull = false := by
  obtain rfl | rfl | rfl | rfl := hi
  · obtain ⟨-, rfl⟩ | ⟨-, rfl⟩ := execInit_next h
    · exact .inl ⟨rfl, rfl, rfl, rfl, rfl, rfl⟩
    · exact .inr ⟨rfl, rfl⟩
  · obtain ⟨-, rfl⟩ | ⟨-, -, rfl⟩ | ⟨-, rfl⟩ := execStart_next h <;> left <;> constructor <;>
      simp [bridgeStartSeq_eq]
  · obtain ⟨-, rfl⟩ | ⟨-, rfl⟩ := execStop_next h <;> left <;> constructor <;> rfl
  · obtain ⟨-, rfl⟩ | ⟨-, -, rfl⟩ | ⟨-, p, a, -, rfl⟩ := execTick_next h <;> left <;> constructor <;>
      simp [bridgeStopSeq_eq, writeDuty_eq]

/-! ### What an unread byte or a full slot shows -/

/-- A step that leaves the receive side alone leaves the difference unread. -/
theorem DiffersInUnwritten.of_keepsReceiveSide (h : DiffersInUnwritten s (s.withStorage m v))
    (hk : KeepsReceiveSide s t) : DiffersInUnwritten t (t.withStorage m v) where
  rest := rfl
  slot hfull := (h.slot (hk.cmdFull ▸ hfull)).trans hk.cmdValue.symm
  unread k hlt := by
    have havail : avail t = avail s := by simp only [avail, hk.rbHead, hk.rbTail, hk.cfg]
    have hs := h.unread k (havail ▸ hlt)
    simpa only [unreadByte, memRead, State.withStorage, hk.rbBuf, hk.rbTail, hk.cfg] using hs

/-- An empty ring and an empty slot show no difference. -/
theorem DiffersInUnwritten.of_empty (hring : s.rbHead = s.rbTail) (hslot : s.cmdFull = false) :
    DiffersInUnwritten s (s.withStorage m v) where
  rest := rfl
  slot hfull := by simp [hslot] at hfull
  unread k hlt := by simp [avail, hring] at hlt

/-- One byte received leaves at most one more unread (40_frame_decoder.md R92). -/
theorem avail_le_of_received (hs : IndicesInRange s) (hhead : t.rbHead = (s.rbHead + 1) % s.cfg.cap)
    (htail : t.rbTail = s.rbTail) (hcfg : t.cfg = s.cfg) : avail t ≤ avail s + 1 := by
  have hcap : 0 < t.cfg.cap := hcfg ▸ Nat.zero_lt_of_lt hs.head
  by_cases hfull : avail s + 1 < t.cfg.cap
  · refine (avail_eq_of_head hfull ?_).le
    rw [hhead, htail, hcfg, head_eq_tail_add_avail hs.head hs.tail, Nat.mod_add_mod, Nat.add_assoc]
  · have := avail_lt (s := t) hcap
    omega

/-- A received byte lands in the same slot of both rings, and that slot is the only one that becomes unread. -/
theorem byteRx_withStorage {b : Byte} (hs : IndicesInRange s) (hs' : IndicesInRange (s.withStorage m v))
    (h : DiffersInUnwritten s (s.withStorage m v)) (he : exec (.byteRx b) s = .next t) :
    ∃ t', exec (.byteRx b) (s.withStorage m v) = .next t' ∧ DiffersInUnwritten t t' := by
  obtain rfl := execByteRx_next he
  refine ⟨_, rfl, rfl, h.slot, fun k hlt => ?_⟩
  have hk := hlt.trans_le (avail_le_of_received hs rfl rfl rfl)
  change memRead (memWrite (s.withStorage m v) s.rbHead b) (s.rbTail + k) =
    memRead (memWrite s s.rbHead b) (s.rbTail + k)
  rw [memRead_memWrite hs.ringWf, memRead_memWrite hs'.ringWf]
  by_cases hhead : (s.rbTail + k) % s.cfg.cap = s.rbHead % s.cfg.cap
  · rw [if_pos hhead]
    exact if_pos hhead
  · have hne : k ≠ avail s := by
      rintro rfl
      rw [← head_eq_tail_add_avail hs.head hs.tail, Nat.mod_eq_of_lt hs.head] at hhead
      exact hhead rfl
    rw [if_neg hhead]
    exact (if_neg hhead).trans (h.unread k (by omega))

theorem unreadByte_consume (n k : Nat) : unreadByte (consume n s) k = unreadByte s (n + k) := by
  simp only [unreadByte, memRead, consume_rbBuf, consume_rbTail, consume_cfg, Nat.mod_add_mod, Nat.add_assoc]

/-- Consuming unread bytes leaves the others as they were in both rings. -/
theorem DiffersInUnwritten.consumed {n : Nat} (h : DiffersInUnwritten s (s.withStorage m v))
    (hs : IndicesInRange s) (hn : n ≤ avail s) :
    DiffersInUnwritten (consume n s) ((consume n s).withStorage m v) where
  rest := rfl
  slot := h.slot
  unread k hk := by
    have havail : avail (consume n s) = avail s - n := avail_consume hs hn rfl rfl rfl
    change unreadByte (consume n (s.withStorage m v)) k = _
    rw [unreadByte_consume, unreadByte_consume]
    exact h.unread _ (by omega)

/-- A published byte is the same in both slots. -/
theorem DiffersInUnwritten.published (h : DiffersInUnwritten s (s.withStorage m v)) (b : Byte) :
    DiffersInUnwritten (cmdPublish b s) ((cmdPublish b s).withStorage m b) :=
  ⟨rfl, fun _ => rfl, h.unread⟩

theorem DiffersInUnwritten.responded (h : DiffersInUnwritten s (s.withStorage m v)) (g : Agent) (r : Response) :
    DiffersInUnwritten (respond g r s) ((respond g r s).withStorage m v) :=
  h.of_keepsReceiveSide ⟨rfl, rfl, rfl, rfl, rfl, rfl⟩

theorem DiffersInUnwritten.window_eq (h : DiffersInUnwritten s (s.withStorage m v)) (ha : 10 ≤ avail s) :
    windowPayload (s.withStorage m v) = windowPayload s ∧ windowValid (s.withStorage m v) = windowValid s := by
  have hpayload : windowPayload (s.withStorage m v) = windowPayload s := by
    refine List.map_congr_left fun k hk => h.unread k ?_
    have : k < 9 := List.mem_range.mp hk
    omega
  exact ⟨hpayload, by rw [windowValid, windowValid, hpayload, h.unread _ (by simp [Config.payloadLen]; omega)]⟩

theorem decode_withStorage (hs : IndicesInRange s) (h : DiffersInUnwritten s (s.withStorage m v))
    (he : exec .decode s = .next t) :
    ∃ t', exec .decode (s.withStorage m v) = .next t' ∧ DiffersInUnwritten t t' := by
  obtain ⟨ha, rfl⟩ | ⟨ha, hv, rfl⟩ | ⟨ha, hv, rfl⟩ := execDecode_next he
  · exact ⟨_, execDecode_underrun ha, h.responded _ _⟩
  · obtain ⟨hpayload, hvalid⟩ := h.window_eq ha
    have hbyte : unreadByte (s.withStorage m v) 0 = unreadByte s 0 := h.unread 0 (by omega)
    refine ⟨_, execDecode_frame ha (hvalid.trans hv), ?_⟩
    rw [hpayload, hbyte]
    exact ((h.consumed hs ha).published _).responded _ _
  · obtain ⟨-, hvalid⟩ := h.window_eq ha
    exact ⟨_, execDecode_resync ha (hvalid.trans hv), (h.consumed hs (by omega)).responded _ _⟩

theorem cmdRead_withStorage (h : DiffersInUnwritten s (s.withStorage m v)) (he : exec .cmdRead s = .next t) :
    ∃ t', exec .cmdRead (s.withStorage m v) = .next t' ∧ DiffersInUnwritten t t' := by
  obtain ⟨hfull, rfl⟩ | ⟨hfull, rfl⟩ := execCmdRead_next he
  · obtain rfl : v = s.cmdValue := h.slot hfull
    exact ⟨_, if_pos hfull, rfl, nofun, h.unread⟩
  · exact ⟨_, if_neg (Bool.eq_false_iff.mp hfull), h.responded _ _⟩

/-! ### Every step -/

/-- Every operation answers alike and leaves the difference unread. -/
theorem exec_ignores_unwritten {i : Instr} (hs : IndicesInRange s) (hs' : IndicesInRange (s.withStorage m v))
    (h : DiffersInUnwritten s (s.withStorage m v)) (he : exec i s = .next t) :
    ∃ t', exec i (s.withStorage m v) = .next t' ∧ DiffersInUnwritten t t' := by
  have drive (hi : i = .init ∨ i = .start ∨ i = .stop ∨ i = .tick) :
      ∃ t', exec i (s.withStorage m v) = .next t' ∧ DiffersInUnwritten t t' := by
    refine ⟨_, exec_withStorage hi he, ?_⟩
    obtain hk | ⟨hring, hslot⟩ := exec_receiveSide hi he
    · exact h.of_keepsReceiveSide hk
    · exact .of_empty hring hslot
  cases i with
  | byteRx b => exact byteRx_withStorage hs hs' h he
  | decode => exact decode_withStorage hs h he
  | cmdRead => exact cmdRead_withStorage h he
  | init | start | stop | tick => exact drive (by simp)

theorem takeEvent_ignores_unwritten (hs : IndicesInRange s) (hs' : IndicesInRange (s.withStorage m v))
    (h : DiffersInUnwritten s (s.withStorage m v)) (he : takeEvent e s = .next t) :
    ∃ t', takeEvent e (s.withStorage m v) = .next t' ∧ DiffersInUnwritten t t' := by
  cases e with
  | op g w =>
    simp only [takeEvent, issue] at he ⊢
    cases hd : decode w with
    | invalid r =>
      simp only [hd] at he
      cases he
      exact ⟨_, rfl, h.of_keepsReceiveSide ⟨rfl, rfl, rfl, rfl, rfl, rfl⟩⟩
    | op i =>
      simp only [hd] at he ⊢
      split at he
      · rw [if_pos ‹_›]
        exact exec_ignores_unwritten hs hs' h he
      · cases he
        rw [if_neg ‹_›]
        exact ⟨_, rfl, h.of_keepsReceiveSide ⟨rfl, rfl, rfl, rfl, rfl, rfl⟩⟩
  | update u =>
    obtain ⟨hc, rfl⟩ := timerUpdate_next he
    refine ⟨_, (if_pos ?_).trans (by rw [mapTimer_withStorage]), h.of_keepsReceiveSide (mapTimer_keepsReceiveSide ..)⟩
    cases u <;> exact hc
  | count u c =>
    obtain ⟨hc, hle, rfl⟩ := timerCount_next he
    refine ⟨_, (if_pos ⟨?_, hle⟩).trans (by rw [mapTimer_withStorage]),
      h.of_keepsReceiveSide (mapTimer_keepsReceiveSide ..)⟩
    cases u <;> exact hc
  | halt =>
    cases he
    exact ⟨_, rfl, h.of_keepsReceiveSide ⟨rfl, rfl, rfl, rfl, rfl, rfl⟩⟩

/-- A step cannot tell the two states apart. -/
theorem step_ignores_unwritten {s' : State} (hs : IndicesInRange s) (hs' : IndicesInRange s')
    (h : DiffersInUnwritten s s') (hstep : step s = .next t) : ∃ t', step s' = .next t' ∧ DiffersInUnwritten t t' := by
  obtain ⟨m, v, rfl⟩ : ∃ m v, s' = s.withStorage m v := ⟨_, _, h.rest⟩
  obtain ⟨hl, ⟨ha, rfl⟩ | ⟨e, rest, ha, he⟩⟩ := step_next hstep
  · refine ⟨_, ?_, h⟩
    rw [step_live (s := t.withStorage m v) hl, takeNext]
    simp [State.withStorage, ha]
  · rw [step_entry (s := s.withStorage m v) hl ha]
    exact takeEvent_ignores_unwritten (hs.withAgenda rest) (hs'.withAgenda rest)
      (h.of_keepsReceiveSide ⟨rfl, rfl, rfl, rfl, rfl, rfl⟩) he

/-- Nor can a run. -/
theorem run_ignores_unwritten {s' : State} {n : Nat} (hs : IndicesInRange s) (hs' : IndicesInRange s')
    (h : DiffersInUnwritten s s') (hrun : Sys2Proof.core.run n s = .next t) :
    ∃ t', Sys2Proof.core.run n s' = .next t' ∧ DiffersInUnwritten t t' := by
  induction n generalizing s s' with
  | zero =>
    rw [run_zero] at hrun
    cases hrun
    exact ⟨s', run_zero s', h⟩
  | succ n ih =>
    obtain ⟨s1, h1, h2⟩ := run_succ_next hrun
    obtain ⟨s1', h1', hd⟩ := step_ignores_unwritten hs hs' h h1
    rw [run_succ h1']
    exact ih (step_keeps_indices hs h1) (step_keeps_indices hs' h1') hd h2

end

end Sys2Proof.Machine

open Sys2Proof Sys2Proof.Machine

/-- Settles O51: an operation shows of ring and slot only unread bytes and a full slot, where the two states agree, and
what it writes there it writes in both alike. -/
theorem stepIgnoresUnwrittenStorage : Obligations.StepIgnoresUnwrittenStorage :=
  fun _ _ _ => step_ignores_unwritten

/-- Settles O52: at the launch nothing is unread and the slot is empty, so the two launches differ in unwritten storage
only, and the runs keep it so. -/
theorem resetContentsNeverObserved : Obligations.ResetContentsNeverObserved := by
  rintro c d d' run n s ⟨hc, hd, hrun⟩ hdiff hd'
  have hlaunch : DiffersInUnwritten { State.launch c d with agenda := run }
      { State.launch c d' with agenda := run } := by
    rw [hdiff]
    exact .of_empty rfl rfl
  obtain ⟨s', hrun', hs'⟩ := run_ignores_unwritten ((Inv.launch hc hd).indices.withAgenda run)
    ((Inv.launch hc hd').indices.withAgenda run) hlaunch hrun
  refine ⟨s', ⟨hc, hd', hrun'⟩, ?_⟩
  rw [hs'.rest]
  exact ⟨rfl, rfl, rfl, rfl, rfl⟩

end

section
/-! 20_memory.md section 6: the operations complete, each with its response. -/

namespace Sys2Proof.Machine

open Sys2Proof

/-- No operation stops the machine: `exec` answers a next state from every state (20_memory.md R64). -/
theorem exec_total (i : Instr) (s : State) : ∃ t, exec i s = .next t := by
  cases i with
  | init =>
    simp only [exec, execInit]
    cases s.bridgeState <;> exact ⟨_, rfl⟩
  | byteRx d => exact ⟨_, rfl⟩
  | decode =>
    simp only [exec, execDecode]
    split_ifs <;> exact ⟨_, rfl⟩
  | cmdRead =>
    simp only [exec, execCmdRead]
    split_ifs <;> exact ⟨_, rfl⟩
  | start =>
    simp only [exec, execStart]
    cases s.phase <;> exact ⟨_, rfl⟩
  | stop => exact ⟨_, rfl⟩
  | tick =>
    obtain ⟨_, _, _, _, _, _, _, h, -⟩ := execTick_keeps s
    exact ⟨_, h⟩

end Sys2Proof.Machine

open Sys2Proof Sys2Proof.Machine

/-- Settles O11: some next state is answered, and in each case an operation can end in it is the refusal of INIT or one
response of the operation's own. -/
theorem everyOperationCompletesWithItsResponse : Obligations.EveryOperationCompletesWithItsResponse := by
  intro i s
  obtain ⟨t, h⟩ := exec_total i s
  refine ⟨t, h, ?_⟩
  cases i with
  | init =>
    obtain ⟨hb, rfl⟩ | ⟨-, rfl⟩ := execInit_next h
    · exact .inl ⟨rfl, hb, rfl, rfl⟩
    · exact .inr ⟨rfl, .ack, rfl, rfl, rfl⟩
  | byteRx d =>
    obtain rfl := execByteRx_next h
    exact .inr ⟨rfl, .ack, rfl, rfl, rfl⟩
  | decode =>
    obtain ⟨-, rfl⟩ | ⟨-, -, rfl⟩ | ⟨-, -, rfl⟩ := execDecode_next h
    · exact .inr ⟨rfl, .noframe, rfl, rfl, .inl rfl⟩
    · exact .inr ⟨rfl, .frame _, decide_eq_true (windowPayload_length s), rfl, .inr rfl⟩
    · exact .inr ⟨rfl, .noframe, rfl, rfl, .inl rfl⟩
  | cmdRead =>
    obtain ⟨-, rfl⟩ | ⟨-, rfl⟩ := execCmdRead_next h
    · exact .inr ⟨rfl, .value _, rfl, rfl, .inr rfl⟩
    · exact .inr ⟨rfl, .empty, rfl, rfl, .inl rfl⟩
  | start =>
    obtain ⟨-, rfl⟩ | ⟨-, -, rfl⟩ | ⟨-, rfl⟩ := execStart_next h
    · rw [bridgeStartSeq_eq]
      exact .inr ⟨rfl, .ack, rfl, rfl, rfl⟩
    · exact .inr ⟨rfl, .ack, rfl, rfl, rfl⟩
    · exact .inr ⟨rfl, .ack, rfl, rfl, rfl⟩
  | stop =>
    obtain ⟨-, rfl⟩ | ⟨-, rfl⟩ := execStop_next h <;> exact .inr ⟨rfl, .ack, rfl, rfl, rfl⟩
  | tick =>
    obtain ⟨_, _, _, _, _, _, _, ht, -⟩ := execTick_keeps s
    obtain rfl := Host.Outcome.next.inj (h.symm.trans ht)
    exact .inr ⟨rfl, .ack, rfl, rfl, rfl⟩

end

section
/-! 30_encoding.md sections 1 and 2: the decoder and the encoder undo each other, and the decoder by the numbers of the
three fields. -/

namespace Sys2Proof.Machine

open Sys2Proof

/-- The word of every operation lies in its own row of the opcode map. -/
theorem tableRow (i : Instr) : Laws.TableRow.Statement i := by
  cases i with
  | init => exact Laws.TableRow.init
  | byteRx d => exact Laws.TableRow.byteRx d
  | decode => exact Laws.TableRow.decode
  | cmdRead => exact Laws.TableRow.cmdRead
  | start => exact Laws.TableRow.start
  | stop => exact Laws.TableRow.stop
  | tick => exact Laws.TableRow.tick

/-- An operation's word is read as that operation, operand and all (30_encoding.md R77). -/
@[simp] theorem decode_encode (i : Instr) : decode (encode i) = .op i := by
  cases i with
  | byteRx d =>
    obtain ⟨-, -, hrsv, himm, hop⟩ := tableRow (.byteRx d)
    simp [decode, hop, hrsv, himm, Instr.opcode, Instr.imm]
  | init | decode | cmdRead | start | stop | tick => rfl

theorem decode_eq_op_iff {w : Word} {i : Instr} : decode w = .op i ↔ w = encode i :=
  ⟨eq_encode_of_decode, fun h => h ▸ decode_encode i⟩

/-! ### By the numbers of the fields (30_encoding.md R71, R77) -/

theorem decode_reservedOpcode {w : Word} (h : w.toNat / 4096 = 0 ∨ 8 ≤ w.toNat / 4096) :
    decode w = .invalid .reservedOpcode :=
  if_pos (by rw [opField_toNat]; omega)

/-- Past the opcode's check, RSV other than zero is refused. -/
theorem decode_reservedBits_of_rsv {w : Word} (hlo : 1 ≤ w.toNat / 4096) (hhi : w.toNat / 4096 ≤ 7)
    (hrsv : w.toNat / 256 % 16 ≠ 0) : decode w = .invalid .reservedBits := by
  have hop : ¬((opField w).toNat < 1 ∨ 7 < (opField w).toNat) := by rw [opField_toNat]; omega
  have hne : rsvField w ≠ 0#4 := fun h => hrsv (by simpa [h] using (rsvField_toNat w).symm)
  rw [decode, if_neg hop, if_pos hne]

theorem formatN_of_imm_ne {w : Word} (h : immField w ≠ 0#8) (i : Instr) : formatN i w = .invalid .reservedBits :=
  if_neg h

/-- Every opcode but BYTE_RX's is of format N, which an operand byte other than zero does not fit. -/
theorem decode_reservedBits_of_imm {w : Word} (hlo : 1 ≤ w.toNat / 4096) (hhi : w.toNat / 4096 ≤ 7)
    (hne : w.toNat / 4096 ≠ 2) (himm : w.toNat % 256 ≠ 0) : decode w = .invalid .reservedBits := by
  rw [← opField_toNat] at hlo hhi hne
  have himm : immField w ≠ 0#8 := fun h => himm (by simpa [h] using (immField_toNat w).symm)
  unfold decode
  rw [if_neg (by omega)]
  split
  · rfl
  · split
    case h_2 h2 => exact absurd h2 hne
    all_goals exact formatN_of_imm_ne himm _

/-- A word whose field numbers are an operation's spells that operation. -/
theorem decode_of_fields {w : Word} (i : Instr) (hop : w.toNat / 4096 = i.opcode.toNat)
    (hrsv : w.toNat / 256 % 16 = 0) (himm : w.toNat % 256 = i.imm.toNat) : decode w = .op i := by
  refine decode_eq_op_iff.mpr (BitVec.eq_of_toNat_eq ?_)
  rw [encode_toNat]
  omega

/-! ### How many words spell an operation -/

/-- The numbers of the words that spell an operation: the 256 of BYTE_RX and one for each other operation. -/
def operationNumbers : Finset Nat :=
  Finset.Ico 0x2000 0x2100 ∪ {0x1000, 0x3000, 0x4000, 0x5000, 0x6000, 0x7000}

theorem card_operationNumbers : operationNumbers.card = 262 := by
  have hdisjoint : Disjoint (Finset.Ico 0x2000 0x2100) {0x1000, 0x3000, 0x4000, 0x5000, 0x6000, 0x7000} := by
    simp [Finset.disjoint_right]
  rw [operationNumbers, Finset.card_union_of_disjoint hdisjoint, Nat.card_Ico]
  rfl

theorem mem_operationNumbers {n : Nat} : n ∈ operationNumbers ↔ ∃ i : Instr, n = (encode i).toNat := by
  simp only [operationNumbers, Finset.mem_union, Finset.mem_Ico, Finset.mem_insert, Finset.mem_singleton, encode_toNat]
  constructor
  · rintro (⟨hlo, hhi⟩ | rfl | rfl | rfl | rfl | rfl | rfl)
    · exact ⟨.byteRx (BitVec.ofNat 8 (n - 0x2000)), by simp [Instr.opcode, Instr.imm]; omega⟩
    · exact ⟨.init, rfl⟩
    · exact ⟨.decode, rfl⟩
    · exact ⟨.cmdRead, rfl⟩
    · exact ⟨.start, rfl⟩
    · exact ⟨.stop, rfl⟩
    · exact ⟨.tick, rfl⟩
  · rintro ⟨i, rfl⟩
    cases i with
    | byteRx d =>
      have := d.isLt
      simp [Instr.opcode, Instr.imm]
      omega
    | init | decode | cmdRead | start | stop | tick => simp [Instr.opcode, Instr.imm]

theorem decodes_iff {n : Nat} (hn : n < 65536) :
    (decode (BitVec.ofNat 16 n)).instr?.isSome = true ↔ n ∈ operationNumbers := by
  have hnat (i : Instr) : BitVec.ofNat 16 n = encode i ↔ n = (encode i).toNat := by
    rw [← BitVec.toNat_inj, BitVec.toNat_ofNat, Nat.mod_eq_of_lt hn]
  simp only [mem_operationNumbers, ← hnat, ← decode_eq_op_iff]
  cases decode (BitVec.ofNat 16 n) <;> simp [Decoded.instr?]

theorem countP_range (p : Nat → Bool) (n : Nat) :
    (List.range n).countP p = {k ∈ Finset.range n | p k = true}.card := by
  rw [← Nat.count_eq_card_filter_range, Nat.count]
  simp only [Bool.decide_eq_true]

theorem countP_range_not (p : Nat → Bool) (n : Nat) :
    (List.range n).countP (fun k => !p k) = n - (List.range n).countP p := by
  have h := List.length_eq_countP_add_countP (l := List.range n) p
  simp only [List.length_range, Bool.not_eq_true, Bool.decide_eq_false] at h
  omega

/-- The numbers of 16-bit words that decode to an operation. -/
theorem filter_decodes :
    {n ∈ Finset.range 65536 | (decode (BitVec.ofNat 16 n)).instr?.isSome = true} = operationNumbers := by
  ext n
  rw [Finset.mem_filter, Finset.mem_range]
  refine ⟨fun ⟨hn, h⟩ => (decodes_iff hn).mp h, fun h => ?_⟩
  obtain ⟨i, rfl⟩ := mem_operationNumbers.mp h
  exact ⟨(encode i).isLt, (decodes_iff (encode i).isLt).mpr h⟩

theorem count_decodes :
    (List.range 65536).countP (fun n => (decode (BitVec.ofNat 16 n)).instr?.isSome) = 262 := by
  rw [countP_range, filter_decodes, card_operationNumbers]

theorem count_undecoded :
    (List.range 65536).countP (fun n => (decode (BitVec.ofNat 16 n)).instr?.isNone) = 65274 := by
  simp only [← Option.not_isSome, countP_range_not, count_decodes]

/-! ### Match and mask (30_encoding.md R74) -/

theorem matchBits_eq (i : Instr) : i.matchBits = i.opcode ++ 0#12 := by
  cases i <;> simp [Instr.matchBits, Instr.opcode]

theorem maskBits_eq (i : Instr) : i.maskBits = if i.opcode = 2#4 then 0xFF00#16 else BitVec.allOnes 16 := by
  cases i <;> simp [Instr.maskBits, Instr.opcode]

theorem opField_and (v w : Word) : opField (v &&& w) = opField v &&& opField w := BitVec.extractLsb'_and

theorem rsvField_and (v w : Word) : rsvField (v &&& w) = rsvField v &&& rsvField w := BitVec.extractLsb'_and

/-- BYTE_RX's mask passes OP and RSV whole and leaves the operand byte free. -/
theorem eq_encode_byteRx_of_masked {w : Word} (h : w &&& 0xFF00#16 = 0x2000#16) : w = encode (.byteRx (immField w)) := by
  have hop := congrArg opField h
  have hrsv := congrArg rsvField h
  rw [opField_and, show opField 0xFF00#16 = BitVec.allOnes 4 by decide, BitVec.and_allOnes] at hop
  rw [rsvField_and, show rsvField 0xFF00#16 = BitVec.allOnes 4 by decide, BitVec.and_allOnes] at hrsv
  exact eq_encode_of_fields hop hrsv rfl

/-- A word that the row of `i` selects spells an operation of that row. -/
theorem decode_of_masked {w : Word} {i : Instr} (h : w &&& i.maskBits = i.matchBits) :
    ∃ j, decode w = .op j ∧ j.opcode = i.opcode := by
  have whole (hmask : i.maskBits = BitVec.allOnes 16) (hword : i.matchBits = encode i) :
      ∃ j, decode w = .op j ∧ j.opcode = i.opcode := by
    rw [hmask, BitVec.and_allOnes, hword] at h
    exact ⟨i, decode_eq_op_iff.mpr h, rfl⟩
  cases i with
  | byteRx d => exact ⟨_, decode_eq_op_iff.mpr (eq_encode_byteRx_of_masked h), rfl⟩
  | init | decode | cmdRead | start | stop | tick => exact whole rfl rfl

/-- A word that spells an operation is selected by the row of every operation with that opcode. -/
theorem masked_of_decode {w : Word} {i j : Instr} (h : decode w = .op j) (hop : j.opcode = i.opcode) :
    w &&& i.maskBits = i.matchBits := by
  obtain ⟨-, hrow, -⟩ := tableRow j
  rw [matchBits_eq, maskBits_eq, ← hop, ← matchBits_eq, ← maskBits_eq, eq_encode_of_decode h, hrow]

/-! ### A placed word -/

theorem wordIssuer_encode (i : Instr) : wordIssuer (encode i) = i.owner := by
  simp only [wordIssuer, decode_encode]

theorem withFetchWord_toNat (s : State) (w : Word) : s.withFetchWord 16 w.toNat = placeWord w s := by
  rw [State.withFetchWord, Nat.mod_eq_of_lt w.isLt, BitVec.ofNat_toNat, BitVec.setWidth_eq]

theorem decodeTableWord_toNat (w : Word) : decodeTableWord 16 w.toNat = (decode w).instr? := by
  rw [decodeTableWord, if_pos ⟨le_rfl, w.isLt⟩, BitVec.ofNat_toNat, BitVec.setWidth_eq]

end Sys2Proof.Machine

open Sys2Proof Sys2Proof.Machine

/-- Settles O1: an operation's word has its fields, so it is read back, and a word read as an operation has that
operation's fields, so it is that operation's word. -/
theorem decodedWordsAreExactlyTheEncodings : Obligations.DecodedWordsAreExactlyTheEncodings :=
  fun _ _ => decode_eq_op_iff

/-- Settles O2: each clause is one branch of the decoder, by the numbers of the fields; the words that spell an operation
are the 256 of BYTE_RX and the six of format N. -/
theorem decodingFollowsTheFields : Obligations.DecodingFollowsTheFields := by
  refine ⟨?_, count_decodes, count_undecoded⟩
  rintro w op rsv imm rfl rfl rfl
  refine ⟨decode_reservedOpcode, decode_reservedBits_of_rsv, fun hop hrsv => decode_of_fields _ hop hrsv ?_,
    fun hlo hhi hne _ himm => decode_reservedBits_of_imm hlo hhi hne himm, decode_of_fields .init,
    decode_of_fields .decode, decode_of_fields .cmdRead, decode_of_fields .start, decode_of_fields .stop,
    decode_of_fields .tick⟩
  simp [Instr.imm]

/-- Settles O3: the decoder, run on each word. -/
theorem sampleWordsDecode : Obligations.SampleWordsDecode := by
  unfold Obligations.SampleWordsDecode
  decide

/-- Settles O4: only BYTE_RX's mask leaves bits free, and those are its operand byte. -/
theorem matchAndMaskSelectTheRow : Obligations.MatchAndMaskSelectTheRow :=
  fun _ _ => ⟨decode_of_masked, fun ⟨_, hj, hop⟩ => masked_of_decode hj hop⟩

/-- Settles O6: the placed word decodes to its operation, and its issuer is that operation's owner. -/
theorem placedWordRunsNext : Obligations.PlacedWordRunsNext := by
  intro s i hlive
  constructor
  · rw [withFetchWord_toNat]
    exact stepRunsTheDecodedOperation (placeWord (encode i) s) _ _ s.agenda i (s.live_congr hlive rfl rfl rfl) rfl
      (decode_encode i) (wordIssuer_encode i).symm
  · rw [decodeTableWord_toNat, decode_encode]
    rfl

/-- Settles O54: a pseudo-operation's expansion is the list written out, and a program's agenda encodes each operation
of it. -/
theorem pseudoOperationsExpand : Obligations.PseudoOperationsExpand := by
  refine ⟨fun _ => rfl, fun _ _ _ _ _ _ _ _ _ _ => ⟨rfl, rfl⟩, fun _ => rfl, fun l => ?_⟩
  simp only [programAgenda, List.flatMap_singleton]
  rfl

end

section
/-! 30_encoding.md section 5: the words of BYTES received one after the other, and the frame they make up. -/

namespace Sys2Proof.Machine

open Sys2Proof

section

variable {s t u : State}

/-- An operation issued by its owner at the front of a live block's agenda is the next one run. -/
theorem step_issued {i : Instr} {rest : List Event} (hlive : s.live = true)
    (hagenda : s.agenda = .op i.owner (encode i) :: rest) : step s = exec i { s with agenda := rest } :=
  stepRunsTheDecodedOperation s _ _ rest i hlive hagenda (decode_encode i) rfl

theorem State.cfg_ok_of_live (h : s.live = true) : s.cfg.ok = true := by
  simp only [State.live, Bool.and_eq_true] at h
  exact h.1.1

/-! ### One byte received -/

theorem unreadBytes_succ (s : State) (n : Nat) : unreadBytes s (n + 1) = unreadBytes s n ++ [unreadByte s n] := by
  simp [unreadBytes, List.range_succ]

/-- The slots at different distances below CAP from the tail are different slots. -/
theorem slot_inj {i j : Nat} (hi : i < s.cfg.cap) (hj : j < s.cfg.cap)
    (h : (s.rbTail + i) % s.cfg.cap = (s.rbTail + j) % s.cfg.cap) : i = j := by
  have hmod : i ≡ j [MOD s.cfg.cap] := Nat.ModEq.add_left_cancel' s.rbTail h
  exact hmod.eq_of_lt_of_lt hi hj

/-- The ring after BYTE_RX `b` (40_frame_decoder.md R91). -/
def receive (b : Byte) (s : State) : State :=
  { memWrite s s.rbHead b with rbHead := (s.rbHead + 1) % s.cfg.cap }

theorem exec_byteRx (b : Byte) (s : State) : exec (.byteRx b) s = .next (respond .rx .ack (receive b s)) := rfl

/-- The received byte is the newest unread one; the others stay as they were. -/
theorem unreadByte_receive (hs : IndicesInRange s) (b : Byte) {k : Nat} (hk : k < s.cfg.cap) :
    unreadByte (receive b s) k = if k = avail s then b else unreadByte s k := by
  have hlt : avail s < s.cfg.cap := avail_lt (Nat.zero_lt_of_lt hs.head)
  have hslot : (s.rbTail + k) % s.cfg.cap = s.rbHead % s.cfg.cap ↔ k = avail s := by
    rw [head_eq_tail_add_avail hs.head hs.tail, Nat.mod_mod]
    exact ⟨slot_inj hk hlt, fun h => h ▸ rfl⟩
  change memRead (memWrite s s.rbHead b) (s.rbTail + k) = _
  simp only [unreadByte, memRead_memWrite hs.ringWf, hslot]

/-- While the ring is not full, a received byte is one more unread byte (40_frame_decoder.md R92). -/
theorem avail_receive (hs : IndicesInRange s) (hroom : avail s + 1 < s.cfg.cap) (b : Byte) :
    avail (receive b s) = avail s + 1 := by
  refine avail_eq_of_head hroom ?_
  change (s.rbHead + 1) % s.cfg.cap = (s.rbTail + (avail s + 1)) % s.cfg.cap
  rw [head_eq_tail_add_avail hs.head hs.tail, Nat.mod_add_mod, Nat.add_assoc]

theorem unreadBytes_receive (hs : IndicesInRange s) (hroom : avail s + 1 < s.cfg.cap) (b : Byte) :
    unreadBytes (receive b s) (avail (receive b s)) = unreadBytes s (avail s) ++ [b] := by
  have hold : unreadBytes (receive b s) (avail s) = unreadBytes s (avail s) := by
    refine List.map_congr_left fun k hk => ?_
    have hk : k < avail s := List.mem_range.mp hk
    rw [unreadByte_receive hs b (by omega), if_neg hk.ne]
  rw [avail_receive hs hroom, unreadBytes_succ, hold, unreadByte_receive hs b (by omega), if_pos rfl]

/-! ### The words of BYTES -/

/-- `t` is `s` after the bytes `bs` were received behind the unread ones, with `rest` still to come (40_frame_decoder.md
R91). -/
structure Received (s : State) (bs : List Byte) (rest : List Event) (t : State) : Prop where
  live : t.live = true
  cfg : t.cfg = s.cfg
  indices : IndicesInRange t
  agenda : t.agenda = rest
  cmdFull : t.cmdFull = s.cmdFull
  cmdValue : t.cmdValue = s.cmdValue
  responses : t.responses = List.replicate bs.length (.rx, .ack) ++ s.responses
  unreadCount : avail t = avail s + bs.length
  unreadBytes_eq : unreadBytes t (avail t) = unreadBytes s (avail s) ++ bs

/-- A BYTE_RX whose byte the ring has room for (40_frame_decoder.md R91, R92). -/
theorem step_byteRx {b : Byte} {rest : List Event} (hlive : s.live = true) (hs : IndicesInRange s)
    (hroom : avail s + 1 < s.cfg.cap) (hagenda : s.agenda = issueEvent (.rx, .byteRx b) :: rest) :
    ∃ t, step s = .next t ∧ Received s [b] rest t := by
  have hstep := (step_issued (i := .byteRx b) hlive hagenda).trans (exec_byteRx ..)
  have hs' := hs.withAgenda rest
  exact ⟨_, hstep, s.live_congr hlive rfl rfl rfl, rfl, step_keeps_indices hs hstep, rfl, rfl, rfl, rfl,
    avail_receive hs' hroom b, unreadBytes_receive hs' hroom b⟩

theorem Received.nil {rest : List Event} (hlive : s.live = true) (hs : IndicesInRange s) (hagenda : s.agenda = rest) :
    Received s [] rest s :=
  ⟨hlive, rfl, hs, hagenda, rfl, rfl, rfl, rfl, by simp⟩

theorem Received.cons {b : Byte} {bs : List Byte} {rest rest' : List Event} (h : Received s [b] rest t)
    (h' : Received t bs rest' u) : Received s (b :: bs) rest' u where
  live := h'.live
  cfg := h'.cfg.trans h.cfg
  indices := h'.indices
  agenda := h'.agenda
  cmdFull := h'.cmdFull.trans h.cmdFull
  cmdValue := h'.cmdValue.trans h.cmdValue
  responses := by simp [h'.responses, h.responses, List.replicate_succ']
  unreadCount := by simp [h'.unreadCount, h.unreadCount]; omega
  unreadBytes_eq := by simp [h'.unreadBytes_eq, h.unreadBytes_eq]

/-- The words of BYTES, received into a ring with room for them, are the newest unread bytes (30_encoding.md R81). -/
theorem run_bytes {bs : List Byte} {rest : List Event} (hlive : s.live = true) (hs : IndicesInRange s)
    (hroom : avail s + bs.length < s.cfg.cap) (hagenda : s.agenda = (expandBytes bs).map issueEvent ++ rest) :
    ∃ t, Sys2Proof.core.run bs.length s = .next t ∧ Received s bs rest t := by
  induction bs generalizing s with
  | nil => exact ⟨s, run_zero s, .nil hlive hs hagenda⟩
  | cons b bs ih =>
    rw [List.length_cons] at hroom ⊢
    obtain ⟨t, hstep, ht⟩ := step_byteRx hlive hs (by omega) hagenda
    have hroom' : avail t + bs.length < t.cfg.cap := by
      rw [ht.unreadCount, ht.cfg, List.length_singleton]
      omega
    obtain ⟨u, hrun, hu⟩ := ih ht.live ht.indices hroom' ht.agenda
    exact ⟨u, (run_succ hstep _).trans hrun, ht.cons hu⟩

/-! ### DECODE of ten unread bytes -/

theorem window_of_unreadBytes {p : List Byte} {c : Byte} (hp : p.length = 9) (h : unreadBytes s 10 = p ++ [c]) :
    windowPayload s = p ∧ unreadByte s 9 = c := by
  rw [unreadBytes_succ] at h
  obtain ⟨hpayload, hlast⟩ := List.append_inj h ((windowPayload_length s).trans hp.symm)
  exact ⟨hpayload, by simpa using hlast⟩

/-- Ten bytes received with nothing unread before are the window that the next DECODE looks at. -/
theorem Received.window {p : List Byte} {c : Byte} {rest : List Event} (h : Received s (p ++ [c]) rest t)
    (hp : p.length = 9) (hempty : avail s = 0) :
    avail t = 10 ∧ windowPayload t = p ∧ windowValid t = decide (chk p = c) ∧
      t.responses = List.replicate 10 (.rx, .ack) ++ s.responses := by
  have hlen : (p ++ [c]).length = 10 := by rw [List.length_append, hp]; rfl
  have ht : avail t = 10 := by rw [h.unreadCount, hempty, hlen]
  have hunread := h.unreadBytes_eq
  rw [ht, hempty] at hunread
  obtain ⟨hpayload, hlast⟩ := window_of_unreadBytes hp hunread
  exact ⟨ht, hpayload, by rw [windowValid, hpayload, hlast], hlen ▸ h.responses⟩

/-- The next DECODE returns the payload when its checksum was received behind it, and consumes all ten bytes. -/
theorem Received.decode_frame {p : List Byte} {rest : List Event} (hp : p.length = 9) (hempty : avail s = 0)
    (h : Received s (p ++ [chk p]) (issueEvent (.task, .decode) :: rest) t) :
    ∃ u, step t = .next u ∧ u.agenda = rest ∧ avail u = 0 ∧ u.cmdFull = true ∧ p.head? = some u.cmdValue ∧
      u.responses = (.task, .frame p) :: (List.replicate 10 (.rx, .ack) ++ s.responses) := by
  obtain ⟨havail, hpayload, hvalid, hresponses⟩ := h.window hp hempty
  have hconsumed : avail (consume 10 t) = 0 := by
    rw [avail_consume (t := consume 10 t) h.indices havail.ge rfl rfl rfl, havail]
  refine ⟨_, (step_issued (i := .decode) h.live h.agenda).trans
    (execDecode_frame havail.ge (hvalid.trans (decide_eq_true rfl))), rfl, hconsumed, rfl, ?_, ?_⟩
  · rw [← hpayload]
    rfl
  · rw [← hresponses, ← hpayload]
    rfl

/-- When another byte was received behind it, the next DECODE returns no frame and discards one byte. -/
theorem Received.decode_mismatch {p : List Byte} {c : Byte} {rest : List Event} (hp : p.length = 9)
    (hempty : avail s = 0) (hc : chk p ≠ c)
    (h : Received s (p ++ [c]) (issueEvent (.task, .decode) :: rest) t) :
    ∃ u, step t = .next u ∧ u.agenda = rest ∧ avail u = 9 ∧ u.cmdFull = s.cmdFull ∧ u.cmdValue = s.cmdValue ∧
      u.responses = (.task, .noframe) :: (List.replicate 10 (.rx, .ack) ++ s.responses) := by
  obtain ⟨havail, -, hvalid, hresponses⟩ := h.window hp hempty
  have hconsumed : avail (consume 1 t) = 9 := by
    rw [avail_consume (t := consume 1 t) h.indices (by omega) rfl rfl rfl, havail]
  refine ⟨_, (step_issued (i := .decode) h.live h.agenda).trans
    (execDecode_resync havail.ge (hvalid.trans (decide_eq_false hc))), rfl, hconsumed, h.cmdFull, h.cmdValue, ?_⟩
  rw [← hresponses]
  rfl

end

end Sys2Proof.Machine

open Sys2Proof Sys2Proof.Machine

/-- Settles O20: the ten bytes received are the whole window of the DECODE; its last byte is the checksum of the first
nine in FRAME, and differs from it in BADFRAME. -/
theorem receivedFrameIsDecoded : Obligations.ReceivedFrameIsDecoded := by
  intro s p m rest hlive hs hempty hp
  obtain ⟨-, hcap, -⟩ := Config.ok_bounds (State.cfg_ok_of_live hlive)
  have received (c : Byte)
      (hagenda : s.agenda = (expandBytes (p ++ [c])).map issueEvent ++ issueEvent (.task, .decode) :: rest) :
      ∃ t, Sys2Proof.core.run 10 s = .next t ∧ Received s (p ++ [c]) (issueEvent (.task, .decode) :: rest) t := by
    have hlen : (p ++ [c]).length = 10 := by rw [List.length_append, hp]; rfl
    rw [← hlen]
    exact run_bytes hlive hs (by omega) hagenda
  constructor
  · intro hagenda
    obtain ⟨t, hrun, ht⟩ := received (chk p) (by simpa [programAgenda, expandLine, Instr.owner] using hagenda)
    obtain ⟨u, hstep, hu⟩ := ht.decode_frame hp hempty
    exact ⟨u, (run_add hrun).trans (run_succ hstep 0), hu⟩
  · intro hm hagenda
    have hc : chk p ≠ chk p ^^^ m := fun h => hm (by simpa using h.symm)
    obtain ⟨t, hrun, ht⟩ := received (chk p ^^^ m) (by simpa [programAgenda, expandLine, Instr.owner] using hagenda)
    obtain ⟨u, hstep, hu⟩ := ht.decode_mismatch hp hempty hc
    exact ⟨u, (run_add hrun).trans (run_succ hstep 0), hu⟩

end

section
/-! 40_frame_decoder.md: what BYTE_RX and DECODE do to the unread bytes, wherever these lie in the ring. -/

namespace Sys2Proof.Machine

open Sys2Proof

section

variable {s s' : State}

/-! ### BYTE_RX -/

theorem memRead_receive (hs : IndicesInRange s) (b : Byte) (i : Nat) :
    memRead (receive b s) i = if i % s.cfg.cap = s.rbHead % s.cfg.cap then b else memRead s i :=
  memRead_memWrite hs.ringWf s.rbHead i b

/-- A byte received into a full ring moves the head onto the tail (40_frame_decoder.md R92). -/
theorem rbHead_receive_full (hs : IndicesInRange s) (hfull : avail s + 1 = s.cfg.cap) (b : Byte) :
    (receive b s).rbHead = s.rbTail := by
  change (s.rbHead + 1) % s.cfg.cap = s.rbTail
  rw [head_eq_tail_add_avail hs.head hs.tail, Nat.mod_add_mod, Nat.add_assoc, hfull, Nat.add_mod_right,
    Nat.mod_eq_of_lt hs.tail]

theorem avail_eq_zero (h : s.rbHead = s.rbTail) : avail s = 0 := by
  simp [avail, h]

/-! ### The window of a DECODE -/

/-- The checksum as the seed XORed with all bytes taken together (40_frame_decoder.md R93). -/
theorem chk_eq_foldr (p : List Byte) : chk p = 0x55#8 ^^^ p.foldr (fun b x => b ^^^ x) 0#8 := by
  have h := List.foldl1_eq_foldr1 (f := fun x b : Byte => x ^^^ b) (l := p) (a := 0x55#8) (b := 0#8)
  simpa [chk, Config.seed] using h

theorem windowValid_iff : windowValid s = true ↔ chk (windowPayload s) = unreadByte s 9 := decide_eq_true_iff

theorem windowValid_eq_false_iff : windowValid s = false ↔ chk (windowPayload s) ≠ unreadByte s 9 :=
  decide_eq_false_iff_not

/-- Nine bytes are the payload of the window once they are the nine oldest unread ones. -/
theorem windowPayload_eq_of_bytes {p : List Byte} (hp : p.length = 9)
    (h : ∀ (k : Nat) (hk : k < 9), unreadByte s k = p[k]) : windowPayload s = p := by
  refine List.ext_getElem ((windowPayload_length s).trans hp.symm) fun k _ hk => ?_
  simpa [windowPayload, unreadBytes] using h k (hp ▸ hk)

theorem windowPayload_consume (n : Nat) :
    windowPayload (consume n s) = (List.range 9).map fun j => unreadByte s (n + j) :=
  List.map_congr_left fun _ _ => unreadByte_consume n _

theorem consume_consume (m n : Nat) : consume n (consume m s) = consume (m + n) s := by
  simp only [consume, Nat.mod_add_mod, Nat.add_assoc]

theorem consume_zero (hs : IndicesInRange s) : consume 0 s = s := by
  rw [consume, Nat.add_zero, Nat.mod_eq_of_lt hs.tail]

/-! ### Several DECODEs that each discard one byte -/

/-- `s` after `n` DECODEs without a frame that each discarded one byte, with `rest` still to come (40_frame_decoder.md
R94, R96). -/
def discard (n : Nat) (rest : List Event) (s : State) : State :=
  { consume n s with agenda := rest, responses := List.replicate n (.task, .noframe) ++ s.responses }

theorem discard_zero (hs : IndicesInRange s) : discard 0 s.agenda s = s := by
  rw [discard, consume_zero hs]
  rfl

theorem discard_discard (m n : Nat) (mid rest : List Event) :
    discard n rest (discard m mid s) = discard (m + n) rest s := by
  have hresponses : List.replicate n (Agent.task, Response.noframe) ++
      (List.replicate m (.task, .noframe) ++ s.responses) = List.replicate (m + n) (.task, .noframe) ++ s.responses := by
    rw [← List.append_assoc, List.replicate_append_replicate, Nat.add_comm]
  simp only [discard, consume, Nat.mod_add_mod, Nat.add_assoc, hresponses]

theorem step_discard {rest : List Event} (hlive : s.live = true) (ha : 10 ≤ avail s) (hv : windowValid s = false)
    (hagenda : s.agenda = issueEvent (.task, .decode) :: rest) : step s = .next (discard 1 rest s) :=
  (step_issued (i := .decode) hlive hagenda).trans (execDecode_resync (s := { s with agenda := rest }) ha hv)

/-- While ten bytes are unread and no window on the way satisfies the checksum, DECODEs discard byte after byte. -/
theorem run_discard {n : Nat} {rest : List Event} (hlive : s.live = true) (hs : IndicesInRange s)
    (ha : n + 9 ≤ avail s) (hv : ∀ k < n, windowValid (consume k s) = false)
    (hagenda : s.agenda = decodeEvents n ++ rest) : Sys2Proof.core.run n s = .next (discard n rest s) := by
  induction n generalizing s with
  | zero =>
    obtain rfl : s.agenda = rest := hagenda
    rw [discard_zero hs]
    rfl
  | succ n ih =>
    have hfirst : windowValid s = false := by simpa only [consume_zero hs] using hv 0 n.succ_pos
    have hstep : step s = .next (discard 1 (decodeEvents n ++ rest) s) :=
      step_discard hlive (by omega) hfirst hagenda
    have havail : avail (discard 1 (decodeEvents n ++ rest) s) = avail s - 1 :=
      avail_consume hs (by omega) rfl rfl rfl
    have hv' (k : Nat) (hk : k < n) :
        windowValid (consume k (discard 1 (decodeEvents n ++ rest) s)) = false := by
      change windowValid (consume k (consume 1 s)) = false
      rw [consume_consume]
      exact hv _ (by omega)
    have hrest := ih (s := discard 1 (decodeEvents n ++ rest) s) (s.live_congr hlive rfl rfl rfl)
      (step_keeps_indices hs hstep) (by omega) hv' rfl
    rw [discard_discard, Nat.add_comm] at hrest
    exact (run_succ hstep n).trans hrest

/-! ### The same unread bytes at other places -/

/-- The two states have the same unread bytes, wherever these lie, and the same command slot (40_frame_decoder.md
R98). -/
structure ReceiveAlike (s s' : State) : Prop where
  unreadCount : avail s' = avail s
  unread : ∀ k < avail s, unreadByte s' k = unreadByte s k
  cmdFull : s'.cmdFull = s.cmdFull
  cmdValue : s'.cmdValue = s.cmdValue

theorem ReceiveAlike.window_eq (h : ReceiveAlike s s') (ha : 10 ≤ avail s) :
    windowPayload s' = windowPayload s ∧ windowValid s' = windowValid s := by
  have hpayload : windowPayload s' = windowPayload s := by
    refine List.map_congr_left fun k hk => h.unread k ?_
    have : k < 9 := List.mem_range.mp hk
    omega
  exact ⟨hpayload, by rw [windowValid, windowValid, hpayload, h.unread _ (Nat.lt_of_succ_le ha)]⟩

theorem ReceiveAlike.consumed {n : Nat} (h : ReceiveAlike s s') (hs : IndicesInRange s) (hs' : IndicesInRange s')
    (hn : n ≤ avail s) : ReceiveAlike (consume n s) (consume n s') := by
  have hleft : avail (consume n s) = avail s - n := avail_consume hs hn rfl rfl rfl
  have hleft' : avail (consume n s') = avail s' - n := avail_consume hs' (h.unreadCount ▸ hn) rfl rfl rfl
  refine ⟨by rw [hleft, hleft', h.unreadCount], fun k hk => ?_, h.cmdFull, h.cmdValue⟩
  rw [unreadByte_consume, unreadByte_consume]
  exact h.unread _ (by omega)

theorem ReceiveAlike.published (h : ReceiveAlike s s') (b : Byte) :
    ReceiveAlike (cmdPublish b s) (cmdPublish b s') :=
  ⟨h.unreadCount, h.unread, rfl, rfl⟩

theorem ReceiveAlike.responded (h : ReceiveAlike s s') (g : Agent) (r : Response) :
    ReceiveAlike (respond g r s) (respond g r s') :=
  ⟨h.unreadCount, h.unread, h.cmdFull, h.cmdValue⟩

/-- DECODE sees of the receive side only the unread bytes: it answers alike and leaves them alike. -/
theorem ReceiveAlike.decode (h : ReceiveAlike s s') (hs : IndicesInRange s) (hs' : IndicesInRange s') :
    ∃ t t' r, exec .decode s = .next t ∧ exec .decode s' = .next t' ∧
      t.responses = (.task, r) :: s.responses ∧ t'.responses = (.task, r) :: s'.responses ∧ ReceiveAlike t t' := by
  obtain ⟨t, he⟩ := exec_total .decode s
  obtain ⟨ha, rfl⟩ | ⟨ha, hv, rfl⟩ | ⟨ha, hv, rfl⟩ := execDecode_next he
  · exact ⟨_, _, _, he, execDecode_underrun (h.unreadCount ▸ ha), rfl, rfl, h.responded _ _⟩
  · obtain ⟨hpayload, hvalid⟩ := h.window_eq ha
    have he' := execDecode_frame (h.unreadCount ▸ ha) (hvalid.trans hv)
    rw [hpayload, h.unread 0 (by omega)] at he'
    exact ⟨_, _, _, he, he', rfl, rfl, ((h.consumed hs hs' ha).published _).responded _ _⟩
  · obtain ⟨-, hvalid⟩ := h.window_eq ha
    exact ⟨_, _, _, he, execDecode_resync (h.unreadCount ▸ ha) (hvalid.trans hv), rfl, rfl,
      (h.consumed hs hs' (by omega)).responded _ _⟩

end

end Sys2Proof.Machine

open Sys2Proof Sys2Proof.Machine

/-- Settles O17: the three ways of DECODE, by the number of unread bytes and the checksum of the window. -/
theorem decodeTriesOneFrame : Obligations.DecodeTriesOneFrame := by
  intro s b x hb hx
  obtain rfl : b = unreadByte s := funext hb
  obtain rfl : x = chk (windowPayload s) := hx
  exact ⟨execDecode_underrun, fun ha hc => execDecode_frame ha (windowValid_iff.mpr hc),
    fun ha hc => execDecode_resync ha (windowValid_eq_false_iff.mpr hc)⟩

/-- Settles O15: the byte written is read back at the head, and at no other ring index. -/
theorem byteRxStoresOneByte : Obligations.ByteRxStoresOneByte := by
  intro s d hs
  exact ⟨_, exec_byteRx d s, (memRead_receive hs d _).trans (if_pos rfl),
    fun i hi => (memRead_receive hs d i).trans (if_neg hi), rfl, rfl⟩

/-- Settles O16: with CAP − 1 bytes unread the head lies one slot before the tail, so the byte moves it onto the tail. -/
theorem fullRingBecomesEmpty : Obligations.FullRingBecomesEmpty := by
  intro s d _ hs
  have hlt : avail s < s.cfg.cap := avail_lt (Nat.zero_lt_of_lt hs.head)
  refine ⟨by omega, _, exec_byteRx d s, fun hfull => ?_, fun hroom => avail_receive hs (by omega) d⟩
  have hhead := rbHead_receive_full hs (by omega) d
  exact ⟨avail_eq_zero (s := receive d s) hhead, hhead⟩

/-- Settles O18: each way of DECODE gives one response and consumes its number of bytes. -/
theorem decodeConsumesNoneOneOrTen : Obligations.DecodeConsumesNoneOneOrTen := by
  intro s _ hs
  obtain ⟨t, h⟩ := exec_total .decode s
  obtain ⟨ha, rfl⟩ | ⟨ha, -, rfl⟩ | ⟨ha, -, rfl⟩ := execDecode_next h
  · exact ⟨_, _, h, rfl, rfl, .inl ⟨ha, rfl, rfl⟩⟩
  · exact ⟨_, _, h, rfl, rfl, .inr (.inr ⟨ha, ⟨_, windowPayload_length s, rfl⟩, avail_consume hs ha rfl rfl rfl⟩)⟩
  · exact ⟨_, _, h, rfl, rfl, .inr (.inl ⟨ha, rfl, avail_consume hs (by omega) rfl rfl rfl⟩)⟩

/-- Settles O19: the payload is the window, and its checksum is the byte behind it. -/
theorem payloadAndChecksumRoundTrip : Obligations.PayloadAndChecksumRoundTrip := by
  intro s p hp _ hs ha hbytes hcheck
  obtain rfl := windowPayload_eq_of_bytes hp hbytes
  have hv : windowValid s = true := windowValid_iff.mpr ((chk_eq_foldr _).trans hcheck.symm)
  exact ⟨_, execDecode_frame ha hv, rfl, avail_consume hs ha rfl rfl rfl, rfl, rfl, rfl⟩

/-- Settles O21: ten DECODEs discard the corrupted frame byte by byte, and then the window is the well-formed one. -/
theorem resyncDiscardsTheCorruptedFrame : Obligations.ResyncDiscardsTheCorruptedFrame := by
  intro s b rest hlive hs ha hb hbad hgood hagenda
  obtain rfl : b = unreadByte s := funext hb
  have hv (k : Nat) (hk : k < 10) : windowValid (consume k s) = false := by
    rw [windowValid_eq_false_iff, windowPayload_consume, unreadByte_consume]
    exact hbad k hk
  have discards (n : Nat) (hn : n ≤ 10) :
      Sys2Proof.core.run n s = .next (discard n (decodeEvents (11 - n) ++ rest) s) := by
    refine run_discard hlive hs (by omega) (fun k hk => hv k (by omega)) ?_
    rw [hagenda, decodeEvents, decodeEvents, decodeEvents, ← List.append_assoc, List.replicate_append_replicate,
      Nat.add_sub_cancel' (by omega)]
  refine ⟨fun n hn => ⟨_, discards n hn, rfl, rfl⟩, ?_⟩
  have hframe : windowValid (consume 10 s) = true := by
    rw [windowValid_iff, windowPayload_consume, unreadByte_consume]
    exact hgood
  have havail : avail (consume 10 s) = avail s - 10 := avail_consume hs (by omega) rfl rfl rfl
  have hstep := (step_issued (s := discard 10 (issueEvent (.task, .decode) :: rest) s) (i := .decode)
    (s.live_congr hlive rfl rfl rfl) rfl).trans
      (execDecode_frame (s := discard 10 rest s) (by change 10 ≤ avail (consume 10 s); omega) hframe)
  refine ⟨_, (run_add (discards 10 le_rfl)).trans (run_succ hstep 0), ?_, rfl, ?_⟩
  · change (consume 10 (consume 10 s)).rbTail = _
    rw [consume_consume]
    rfl
  · change (_, Response.frame (windowPayload (consume 10 s))) :: _ = _
    rw [windowPayload_consume]
    rfl

/-- Settles O22: the answer, and what is left unread and in the slot, depend on the unread bytes and the slot alone. -/
theorem wrappedFramesDecodeAlike : Obligations.WrappedFramesDecodeAlike := by
  intro s s' _ _ hs hs' havail hunread hfull hvalue
  obtain ⟨t, t', r, he, he', hr, hr', h⟩ := ReceiveAlike.decode ⟨havail, hunread, hfull, hvalue⟩ hs hs'
  exact ⟨t, t', r, he, he', hr, hr', h.unreadCount, h.unread, h.cmdFull, h.cmdValue⟩

end

section
/-! 41_command_channel.md: the command slot as one optional byte, which follows the frames returned until CMD_READ takes
it. -/

namespace Sys2Proof.Machine

open Sys2Proof

section

variable {s t u : State} {i : Instr}

/-! ### The commanded amplitude -/

theorem commandedAmplitude_mul (s : State) : commandedAmplitude s * 255 = s.cmdValue.toNat :=
  div_mul_cancel₀ _ (by norm_num)

/-- The slot's byte is recovered from the amplitude it represents (10_state.md R25). -/
theorem cmdValue_eq_of_commandedAmplitude_eq (h : commandedAmplitude s = commandedAmplitude t) :
    s.cmdValue = t.cmdValue := by
  have hbytes : (s.cmdValue.toNat : Rat) = t.cmdValue.toNat := by
    rw [← commandedAmplitude_mul, ← commandedAmplitude_mul, h]
  exact BitVec.eq_of_toNat_eq (Nat.cast_injective hbytes)

/-! ### What the drive operations leave of the storage -/

/-- An operation that does the same whatever the storage holds does so for the storage it finds, and so leaves it. -/
theorem exec_keepsStorage (hi : i = .init ∨ i = .start ∨ i = .stop ∨ i = .tick) (h : exec i s = .next t) :
    t.rbBuf = s.rbBuf ∧ t.cmdValue = s.cmdValue := by
  have ht : t.withStorage s.rbBuf s.cmdValue = t :=
    Host.Outcome.next.inj ((exec_withStorage (m := s.rbBuf) (v := s.cmdValue) hi h).symm.trans h)
  exact ⟨(congrArg State.rbBuf ht).symm, (congrArg State.cmdValue ht).symm⟩

/-- INIT, START, STOP and TICK do the same whatever the slot's value (41_command_channel.md R115). -/
theorem exec_withCmdValue (hi : i = .init ∨ i = .start ∨ i = .stop ∨ i = .tick) (h : exec i s = .next t) (v : Byte) :
    exec i { s with cmdValue := v } = .next { t with cmdValue := v } := by
  have ht : t.withStorage s.rbBuf v = { t with cmdValue := v } := by
    rw [State.withStorage, ← (exec_keepsStorage hi h).1]
  exact (exec_withStorage (m := s.rbBuf) hi h).trans (congrArg _ ht)

/-- START, STOP and TICK are acknowledged and leave the slot's flag alone. -/
theorem exec_acknowledged (hi : i = .start ∨ i = .stop ∨ i = .tick) (h : exec i s = .next t) :
    t.cmdFull = s.cmdFull ∧ t.responses = (i.owner, .ack) :: s.responses := by
  obtain rfl | rfl | rfl := hi
  · obtain ⟨-, rfl⟩ | ⟨-, -, rfl⟩ | ⟨-, rfl⟩ := execStart_next h <;> simp [bridgeStartSeq_eq, Instr.owner]
  · obtain ⟨-, rfl⟩ | ⟨-, rfl⟩ := execStop_next h <;> exact ⟨rfl, rfl⟩
  · obtain ⟨-, rfl⟩ | ⟨-, -, rfl⟩ | ⟨-, p, a, -, rfl⟩ := execTick_next h <;>
      simp [bridgeStopSeq_eq, writeDuty_eq, Instr.owner]

/-! ### The slot -/

/-- The byte published and not yet read, if there is one (10_state.md R25). -/
def State.slot (s : State) : Option Byte := if s.cmdFull then some s.cmdValue else none

theorem slot_of_empty (h : s.cmdFull = false) : s.slot = none := by
  simp [State.slot, h]

theorem slot_congr (hfull : t.cmdFull = s.cmdFull) (hvalue : t.cmdValue = s.cmdValue) : t.slot = s.slot := by
  rw [State.slot, State.slot, hfull, hvalue]

/-- CMD_READ answers the slot's byte, or EMPTY, and empties the slot (41_command_channel.md R112). -/
theorem exec_cmdRead (s : State) :
    exec .cmdRead s = .next (respond .task (s.slot.elim .empty .value) (cmdTake s)) := by
  cases hfull : s.cmdFull
  · have htake : cmdTake s = s := by rw [cmdTake, ← hfull]
    simp [exec, execCmdRead, State.slot, hfull, htake]
  · simp [exec, execCmdRead, State.slot, hfull]

/-! ### Steps between two reads -/

theorem newestCommand_append (rs rs' : List (Agent × Response)) :
    newestCommand (rs ++ rs') = (newestCommand rs).or (newestCommand rs') := List.findSome?_append

/-- From `s` to `t` the slot follows the responses given on the way: it holds the command byte of the newest frame among
them, and what it held before when there is none (41_command_channel.md R110). -/
def SlotFollows (s t : State) : Prop :=
  ∃ new, t.responses = new ++ s.responses ∧ t.slot = (newestCommand new).or s.slot

theorem SlotFollows.of_silent (hresponses : t.responses = s.responses) (hslot : t.slot = s.slot) : SlotFollows s t :=
  ⟨[], hresponses, hslot⟩

theorem SlotFollows.of_no_frame {g : Agent} {r : Response} (hr : newestCommand [(g, r)] = none)
    (hresponses : t.responses = (g, r) :: s.responses) (hslot : t.slot = s.slot) : SlotFollows s t :=
  ⟨[(g, r)], hresponses, by rw [hr, hslot, Option.none_or]⟩

theorem SlotFollows.trans (h : SlotFollows s t) (h' : SlotFollows t u) : SlotFollows s u := by
  obtain ⟨new, hresponses, hslot⟩ := h
  obtain ⟨new', hresponses', hslot'⟩ := h'
  refine ⟨new' ++ new, by rw [hresponses', hresponses, List.append_assoc], ?_⟩
  rw [hslot', hslot, newestCommand_append, Option.or_assoc]

/-- DECODE publishes the first byte of the frame it returns, and without a frame publishes nothing
(40_frame_decoder.md R94). -/
theorem decode_slotFollows (h : exec .decode s = .next t) : SlotFollows s t := by
  obtain ⟨-, rfl⟩ | ⟨-, -, rfl⟩ | ⟨-, -, rfl⟩ := execDecode_next h
  · exact .of_no_frame rfl rfl rfl
  · exact ⟨[(.task, .frame (windowPayload s))], rfl, rfl⟩
  · exact .of_no_frame rfl rfl rfl

/-- No operation but CMD_READ and INIT empties the slot, and DECODE alone fills it. -/
theorem exec_slotFollows (hread : i ≠ .cmdRead) (hinit : i ≠ .init) (h : exec i s = .next t) : SlotFollows s t := by
  have acknowledged (hi : i = .start ∨ i = .stop ∨ i = .tick) : SlotFollows s t := by
    obtain ⟨hfull, hresponses⟩ := exec_acknowledged hi h
    exact .of_no_frame rfl hresponses (slot_congr hfull (exec_keepsStorage (.inr hi) h).2)
  cases i with
  | init => exact absurd rfl hinit
  | byteRx b =>
    obtain rfl := execByteRx_next h
    exact .of_no_frame rfl rfl rfl
  | decode => exact decode_slotFollows h
  | cmdRead => exact absurd rfl hread
  | start | stop | tick => exact acknowledged (by simp)

theorem takeEvent_slotFollows {e : Event} (hread : ∀ g, e ≠ .op g (encode .cmdRead))
    (hinit : ∀ g, e ≠ .op g (encode .init)) (h : takeEvent e s = .next t) : SlotFollows s t := by
  obtain ⟨r, rfl⟩ | ⟨i, rfl, hi⟩ | ⟨u, -, -, rfl⟩ | ⟨u, c, -, -, -, rfl⟩ | ⟨-, rfl⟩ := takeEvent_cases h
  · exact .of_silent rfl rfl
  · exact exec_slotFollows (fun hc => hread i.owner (by rw [hc])) (fun hc => hinit i.owner (by rw [hc])) hi
  · exact .of_silent (mapTimer_responses ..) (slot_congr (mapTimer_cmdFull ..) (mapTimer_cmdValue ..))
  · exact .of_silent (mapTimer_responses ..) (slot_congr (mapTimer_cmdFull ..) (mapTimer_cmdValue ..))
  · exact .of_silent rfl rfl

/-- No operation issues another one. -/
theorem exec_agenda (h : exec i s = .next t) : t.agenda = s.agenda := by
  cases i with
  | init => obtain ⟨-, rfl⟩ | ⟨-, rfl⟩ := execInit_next h <;> rfl
  | byteRx b => exact (execByteRx_next h) ▸ rfl
  | decode => obtain ⟨-, rfl⟩ | ⟨-, -, rfl⟩ | ⟨-, -, rfl⟩ := execDecode_next h <;> rfl
  | cmdRead => obtain ⟨-, rfl⟩ | ⟨-, rfl⟩ := execCmdRead_next h <;> rfl
  | start => obtain ⟨-, rfl⟩ | ⟨-, -, rfl⟩ | ⟨-, rfl⟩ := execStart_next h <;> simp [bridgeStartSeq_eq]
  | stop => obtain ⟨-, rfl⟩ | ⟨-, rfl⟩ := execStop_next h <;> rfl
  | tick =>
    obtain ⟨-, rfl⟩ | ⟨-, -, rfl⟩ | ⟨-, p, a, -, rfl⟩ := execTick_next h <;> simp [bridgeStopSeq_eq, writeDuty_eq]

theorem takeEvent_agenda {e : Event} (h : takeEvent e s = .next t) : t.agenda = s.agenda := by
  obtain ⟨r, rfl⟩ | ⟨i, -, hi⟩ | ⟨u, -, -, rfl⟩ | ⟨u, c, -, -, -, rfl⟩ | ⟨-, rfl⟩ := takeEvent_cases h
  · rfl
  · exact exec_agenda hi
  · exact mapTimer_agenda ..
  · exact mapTimer_agenda ..
  · rfl

/-- A step takes the first entry of the agenda, leaves the others to come, and the slot follows what it answers. -/
theorem step_slotFollows {e : Event} {rest : List Event} (hagenda : s.agenda = e :: rest)
    (hread : ∀ g, e ≠ .op g (encode .cmdRead)) (hinit : ∀ g, e ≠ .op g (encode .init)) (h : step s = .next t) :
    SlotFollows s t ∧ t.agenda = rest := by
  have htake : takeEvent e { s with agenda := rest } = .next t := (step_entry (step_next h).1 hagenda).symm.trans h
  have hpop : SlotFollows s { s with agenda := rest } := .of_silent rfl rfl
  exact ⟨hpop.trans (takeEvent_slotFollows hread hinit htake), takeEvent_agenda htake⟩

theorem run_slotFollows {evs rest : List Event} (hagenda : s.agenda = evs ++ rest)
    (hread : ∀ g, Event.op g (encode .cmdRead) ∉ evs) (hinit : ∀ g, Event.op g (encode .init) ∉ evs)
    (hrun : Sys2Proof.core.run evs.length s = .next t) : SlotFollows s t := by
  induction evs generalizing s with
  | nil =>
    rw [List.length_nil, run_zero] at hrun
    cases hrun
    exact .of_silent rfl rfl
  | cons e evs ih =>
    simp only [List.mem_cons, not_or, forall_and] at hread hinit
    obtain ⟨hread, hreads⟩ := hread
    obtain ⟨hinit, hinits⟩ := hinit
    obtain ⟨s1, hstep, hrun⟩ := run_succ_next hrun
    obtain ⟨hfirst, hagenda⟩ :=
      step_slotFollows hagenda (fun g => Ne.symm (hread g)) (fun g => Ne.symm (hinit g)) hstep
    exact hfirst.trans (ih hagenda hreads hinits hrun)

end

end Sys2Proof.Machine

open Sys2Proof Sys2Proof.Machine

/-- Settles O24: every step keeps `SlotFollows`, so a slot that was empty holds the command byte of the newest frame
since, and CMD_READ answers what the slot holds. -/
theorem cmdReadSeesTheLastPublished : Obligations.CmdReadSeesTheLastPublished := by
  intro s t evs rest hempty hagenda hread hinit hrun
  obtain ⟨new, hresponses, hslot⟩ := run_slotFollows hagenda hread hinit hrun
  rw [slot_of_empty hempty, Option.or_none] at hslot
  refine ⟨new, _, hresponses, exec_cmdRead t, ?_, rfl⟩
  rw [respond_responses, cmdTake_responses, hslot]
  cases newestCommand new <;> rfl

/-- Settles O31: BYTE_RX writes the ring alone, and the drive operations do the same whatever the storage holds. -/
theorem commandValueDrivesNothing : Obligations.CommandValueDrivesNothing := by
  intro s t i v hdecode hread h
  cases i with
  | byteRx b =>
    obtain rfl := execByteRx_next h
    rfl
  | decode => exact absurd rfl hdecode
  | cmdRead => exact absurd rfl hread
  | init | start | stop | tick => exact exec_withCmdValue (by simp) h v

/-- Settles O23: the two ways of CMD_READ, by the slot's flag. -/
theorem cmdReadTakesTheValue : Obligations.CmdReadTakesTheValue :=
  fun _ => ⟨fun hfull => if_pos hfull, fun hempty => if_neg (Bool.eq_false_iff.mp hempty)⟩

/-- Settles O53: the amplitude times 255 is the byte, which fixes each value of it. -/
theorem commandedAmplitudeIsAByteOver255 : Obligations.CommandedAmplitudeIsAByteOver255 := by
  intro s s'
  have hmul := commandedAmplitude_mul s
  have hbyte : (s.cmdValue.toNat : Rat) ≤ 255 := by exact_mod_cast Nat.le_of_lt_succ s.cmdValue.isLt
  refine ⟨hmul, by linarith [Nat.cast_nonneg (α := Rat) s.cmdValue.toNat], by linarith, ?_, ?_, ?_,
    cmdValue_eq_of_commandedAmplitude_eq⟩
  all_goals
    intro hvalue
    rw [hvalue] at hmul
    norm_num at hmul
    linarith

end

section
/-! 42_ramp_controller.md: phase and amplitude as an automaton that the table of R125 drives, and the runs of a soft
start and a soft stop in it. -/

namespace Sys2Proof.Machine

open Sys2Proof

/-! ### The table of R125 -/

/-- What the ramp controller holds: phase and amplitude count (10_state.md R26, R27). -/
def State.ramp (s : State) : Phase × Nat := (s.phase, s.amp)

/-- The START column of R125. -/
def rampAfterStart (m : StartWhileStopping) : Phase × Nat → Phase × Nat
  | (.idle, _) => (.starting, 0)
  | (.starting, a) => (.starting, a)
  | (.running, a) => (.running, a)
  | (.stopping, a) =>
    match m with
    | .restart => (.starting, 0)
    | .ignore => (.stopping, a)

/-- The STOP column of R125. -/
def rampAfterStop : Phase × Nat → Phase × Nat
  | (.idle, a) => (.idle, a)
  | (.starting, a) => (.stopping, a)
  | (.running, a) => (.stopping, a)
  | (.stopping, a) => (.stopping, a)

/-- The TICK column of R125, for a ramp of `R` ticks. -/
def rampAfterTick (R : Nat) : Phase × Nat → Phase × Nat
  | (.idle, a) => (.idle, a)
  | (.starting, a) => (if R ≤ a + 1 then .running else .starting, a + 1)
  | (.running, _) => (.running, R)
  | (.stopping, a) => (if a ≤ 1 then .idle else .stopping, a - 1)

/-- The ramp after entry `e`: its column of R125, and nothing for what is no START, STOP or TICK of its owner. -/
def rampAfter (c : Config) (r : Phase × Nat) (e : Event) : Phase × Nat :=
  if e = issueEvent (.task, .start) then rampAfterStart c.startWhileStopping r
  else if e = issueEvent (.task, .stop) then rampAfterStop r
  else if e = issueEvent (.tick, .tick) then rampAfterTick c.rampTicks r
  else r

section

variable {s t d : State} {i : Instr} {e : Event}

/-! ### START, STOP and TICK follow their columns -/

theorem exec_start (s : State) :
    exec .start s = .next (respond .task .ack (rampStart (if s.phase = .idle then bridgeStartSeq s else s))) := by
  cases hp : s.phase <;> simp [exec, execStart, rampStart, hp]

theorem exec_stop (s : State) : exec .stop s = .next (respond .task .ack (rampStop s)) := rfl

/-- START where no soft start begins changes nothing (42_ramp_controller.md R126, R132). -/
theorem exec_start_unchanged (hp : s.phase = .starting ∨ s.phase = .running) :
    exec .start s = .next (respond .task .ack s) := by
  have hne : s.phase ≠ .idle := by rcases hp with hp | hp <;> simp [hp]
  obtain ⟨hbegin, -⟩ | ⟨-, hr⟩ := rampStart_cases s
  · rcases hp with hp | hp <;> simp [hp] at hbegin
  · rw [exec_start, if_neg hne, hr]

/-- STOP where no soft stop begins changes nothing (42_ramp_controller.md R127, R132). -/
theorem exec_stop_unchanged (hp : s.phase = .idle ∨ s.phase = .stopping) :
    exec .stop s = .next (respond .task .ack s) := by
  obtain ⟨hbegin, -⟩ | ⟨-, hr⟩ := rampStop_cases s
  · rcases hp with hp | hp <;> simp [hp] at hbegin
  · rw [exec_stop, hr]

theorem rampStart_ramp (s : State) : (rampStart s).ramp = rampAfterStart s.cfg.startWhileStopping s.ramp := by
  cases hp : s.phase <;> cases hm : s.cfg.startWhileStopping <;>
    simp [rampStart, State.ramp, rampAfterStart, hp, hm]

theorem rampStop_ramp (s : State) : (rampStop s).ramp = rampAfterStop s.ramp := by
  cases hp : s.phase <;> simp [rampStop, State.ramp, rampAfterStop, hp]

theorem exec_start_ramp (h : exec .start s = .next t) :
    t.ramp = rampAfterStart s.cfg.startWhileStopping s.ramp := by
  rw [exec_start] at h
  obtain rfl := Host.Outcome.next.inj h
  change (rampStart _).ramp = _
  rw [rampStart_ramp]
  split
  · rw [bridgeStartSeq_eq]
    rfl
  · rfl

theorem exec_stop_ramp (h : exec .stop s = .next t) : t.ramp = rampAfterStop s.ramp := by
  obtain rfl := Host.Outcome.next.inj h
  exact rampStop_ramp s

theorem exec_tick_ramp (hs : Inv s) (h : exec .tick s = .next t) : t.ramp = rampAfterTick s.cfg.rampTicks s.ramp := by
  obtain ⟨-, -, -, -, -, hR⟩ := Config.ok_bounds hs.config
  obtain ⟨hle, -, hstarting, hrunning⟩ := hs.amplitude
  rw [exec] at h
  cases hp : s.phase with
  | idle =>
    obtain rfl := Host.Outcome.next.inj ((execTick_idle hp).symm.trans h)
    simp [State.ramp, rampAfterTick, hp]
  | starting =>
    have hlt := hstarting hp
    obtain rfl := Host.Outcome.next.inj ((execTick_up (.inl hp)).symm.trans h)
    by_cases hreach : s.cfg.rampTicks ≤ s.amp + 1
    · have hlast : s.amp + 1 = s.cfg.rampTicks := by omega
      simp [State.ramp, rampAfterTick, hp, hlast]
    · simp [State.ramp, rampAfterTick, hp, hreach]
  | running =>
    obtain rfl := Host.Outcome.next.inj ((execTick_up (.inr hp)).symm.trans h)
    rw [if_pos (by rw [hrunning hp]; omega)]
    simp [State.ramp, rampAfterTick, hp]
  | stopping =>
    rcases Nat.lt_or_ge 1 s.amp with ha | ha
    · obtain rfl := Host.Outcome.next.inj ((execTick_down hp hle ha).symm.trans h)
      simp [State.ramp, rampAfterTick, hp, ha]
    · obtain rfl := Host.Outcome.next.inj ((execTick_last hp hR ha).symm.trans h)
      simp [State.ramp, rampAfterTick, hp, ha, bridgeStopSeq_eq, Nat.sub_eq_zero_of_le ha]

/-! ### Every step follows the table -/

/-- The agenda entry of an operation issued by its owner (30_encoding.md R74). -/
def ownerEvent (i : Instr) : Event := issueEvent (i.owner, i)

theorem takeEvent_ownerEvent (i : Instr) (s : State) : takeEvent (ownerEvent i) s = exec i s :=
  issue_owned (decode_encode i) rfl s

theorem exec_keeps_inv (hs : Inv s) (h : exec i s = .next t) : Inv t :=
  takeEvent_keeps_inv hs ((takeEvent_ownerEvent i s).trans h)

/-- Of the changes of the drive side none but START's, STOP's and TICK's concerns the ramp: the INIT that is not refused
finds it in Idle at 0. -/
theorem DriveStep.keeps_ramp (h : DriveStep s e d) (hs : Inv s) (hstart : e ≠ issueEvent (.task, .start))
    (hstop : e ≠ issueEvent (.task, .stop)) (htick : e ≠ issueEvent (.tick, .tick)) : d.ramp = s.ramp := by
  cases h with
  | keep => rfl
  | init hb =>
    have hidle : s.phase = .idle := hs.bridge.idleIff.mpr hb
    simp [State.ramp, hidle, hs.amplitude.idle hidle]
  | start | restart => exact absurd rfl hstart
  | stop => exact absurd rfl hstop
  | tickStops | tickWrites => exact absurd rfl htick
  | update | count => simp [State.ramp]

theorem takeEvent_ramp (hs : Inv s) (h : takeEvent e s = .next t) : t.ramp = rampAfter s.cfg s.ramp e := by
  unfold rampAfter
  split_ifs with hstart hstop htick
  · subst hstart
    exact exec_start_ramp ((takeEvent_ownerEvent .start s).symm.trans h)
  · subst hstop
    exact exec_stop_ramp ((takeEvent_ownerEvent .stop s).symm.trans h)
  · subst htick
    exact exec_tick_ramp hs ((takeEvent_ownerEvent .tick s).symm.trans h)
  · obtain ⟨d, hd, heq⟩ := takeEvent_drive h
    have hramp : t.ramp = d.ramp := congrArg (fun x => (x.phase, x.amp)) heq
    exact hramp.trans (hd.keeps_ramp hs hstart hstop htick)

theorem step_ramp {rest : List Event} (hs : Inv s) (hagenda : s.agenda = e :: rest) (h : step s = .next t) :
    t.agenda = rest ∧ t.ramp = rampAfter s.cfg s.ramp e := by
  have htake : takeEvent e { s with agenda := rest } = .next t := (step_entry (step_next h).1 hagenda).symm.trans h
  exact ⟨takeEvent_agenda htake, takeEvent_ramp (s := { s with agenda := rest }) (hs.withAgenda rest) htake⟩

/-- Every interleaving drives the ramp through the table, entry by entry. -/
theorem run_ramp {evs rest : List Event} (hs : Inv s) (hagenda : s.agenda = evs ++ rest)
    (hrun : Sys2Proof.core.run evs.length s = .next t) :
    Inv t ∧ t.cfg = s.cfg ∧ t.agenda = rest ∧ t.ramp = evs.foldl (rampAfter s.cfg) s.ramp := by
  induction evs generalizing s with
  | nil =>
    rw [List.length_nil, run_zero] at hrun
    cases hrun
    exact ⟨hs, rfl, hagenda, rfl⟩
  | cons e evs ih =>
    obtain ⟨s1, hstep, hrun⟩ := run_succ_next hrun
    obtain ⟨hagenda1, hramp1⟩ := step_ramp hs hagenda hstep
    have hcfg1 := cfg_of_step hstep
    obtain ⟨ht, hcfg, hrest, hramp⟩ := ih (step_keeps_inv hs hstep) hagenda1 hrun
    exact ⟨ht, hcfg.trans hcfg1, hrest, by rw [hramp, hcfg1, hramp1, List.foldl_cons]⟩

/-! ### Runs of START, STOP and TICK take place -/

theorem exec_keeps_live (hi : i = .start ∨ i = .stop ∨ i = .tick) (hlive : s.live = true) (h : exec i s = .next t) :
    t.live = true := by
  have hkeep : t.cfg = s.cfg ∧ t.halted = s.halted ∧ t.refused = s.refused := by
    obtain rfl | rfl | rfl := hi
    · obtain ⟨-, rfl⟩ | ⟨-, -, rfl⟩ | ⟨-, rfl⟩ := execStart_next h <;> simp [bridgeStartSeq_eq]
    · obtain ⟨-, rfl⟩ | ⟨-, rfl⟩ := execStop_next h <;> simp
    · obtain ⟨_, _, _, _, _, _, _, ht, -⟩ := execTick_keeps s
      obtain rfl := Host.Outcome.next.inj (ht.symm.trans h)
      exact ⟨rfl, rfl, rfl⟩
  obtain ⟨hcfg, hhalted, hrefused⟩ := hkeep
  exact State.live_congr hlive hcfg hhalted hrefused

theorem step_of_live {rest : List Event} (hi : i = .start ∨ i = .stop ∨ i = .tick) (hlive : s.live = true)
    (hagenda : s.agenda = ownerEvent i :: rest) : ∃ t, step s = .next t ∧ t.live = true ∧ t.agenda = rest := by
  obtain ⟨t, hexec⟩ := exec_total i { s with agenda := rest }
  exact ⟨t, (step_issued hlive hagenda).trans hexec, exec_keeps_live (s := { s with agenda := rest }) hi hlive hexec,
    exec_agenda hexec⟩

theorem run_of_live {is : List Instr} {rest : List Event} (his : ∀ i ∈ is, i = .start ∨ i = .stop ∨ i = .tick)
    (hlive : s.live = true) (hagenda : s.agenda = is.map ownerEvent ++ rest) :
    ∃ t, Sys2Proof.core.run is.length s = .next t := by
  induction is generalizing s with
  | nil => exact ⟨s, run_zero s⟩
  | cons i is ih =>
    obtain ⟨hi, his⟩ := List.forall_mem_cons.mp his
    obtain ⟨s1, hstep, hlive1, hagenda1⟩ := step_of_live hi hlive hagenda
    obtain ⟨t, hrun⟩ := ih his hlive1 hagenda1
    exact ⟨t, (run_succ hstep _).trans hrun⟩

/-- A START or STOP and `k` ticks after it. -/
theorem run_request_ticks {k : Nat} {rest : List Event} (hi : i = .start ∨ i = .stop) (hlive : s.live = true)
    (hagenda : s.agenda = ownerEvent i :: (tickEvents k ++ rest)) :
    ∃ t, Sys2Proof.core.run ((tickEvents k).length + 1) s = .next t := by
  have his : ∀ j ∈ i :: List.replicate k .tick, j = .start ∨ j = .stop ∨ j = .tick := by
    rintro j (- | ⟨-, hj⟩)
    · exact hi.imp_right .inl
    · exact .inr (.inr (List.eq_of_mem_replicate hj))
  have hlength : (tickEvents k).length + 1 = (i :: List.replicate k Instr.tick).length := by simp [tickEvents]
  rw [hlength]
  exact run_of_live his hlive (by rw [hagenda, List.map_cons, List.map_replicate]; rfl)

/-! ### Soft start and soft stop -/

/-- The ramp `k` ticks into a soft start of `R` ticks (42_ramp_controller.md R129). -/
def softStart (R k : Nat) : Phase × Nat := (if k < R then .starting else .running, min k R)

/-- The ramp `k` ticks into a soft stop from amplitude `a` (42_ramp_controller.md R130). -/
def softStop (a k : Nat) : Phase × Nat := (if max a 1 ≤ k then .idle else .stopping, a - k)

theorem rampAfterTick_softStart (R k : Nat) : rampAfterTick R (softStart R k) = softStart R (k + 1) := by
  unfold softStart
  by_cases hk : k < R
  · by_cases hlast : k + 1 < R
    · simp [rampAfterTick, hk, hlast, hk.le, hlast.le, Nat.not_le.mpr hlast]
    · obtain rfl : R = k + 1 := by omega
      simp [rampAfterTick]
  · have hk1 : ¬ k + 1 < R := by omega
    simp [rampAfterTick, hk, hk1, show R ≤ k + 1 by omega]

theorem rampAfterTick_softStop (R a k : Nat) : rampAfterTick R (softStop a k) = softStop a (k + 1) := by
  unfold softStop
  by_cases hk : max a 1 ≤ k
  · rw [if_pos hk, if_pos (hk.trans (Nat.le_succ k))]
    have hzero : a - k = a - (k + 1) := by omega
    simp only [rampAfterTick, hzero]
  · rw [if_neg hk]
    have hlast : a - k ≤ 1 ↔ max a 1 ≤ k + 1 := by omega
    simp only [rampAfterTick, hlast, Nat.sub_sub]

theorem rampAfterStart_softStart (m : StartWhileStopping) (R k : Nat) :
    rampAfterStart m (softStart R k) = softStart R k := by
  unfold softStart
  split_ifs <;> rfl

theorem rampAfterStop_softStop (a k : Nat) : rampAfterStop (softStop a k) = softStop a k := by
  unfold softStop
  split_ifs <;> rfl

/-- Entries that move a course `f` of the ramp on at each tick and otherwise leave it move it on as often as they
tick. -/
theorem foldl_rampAfter {c : Config} {f : Nat → Phase × Nat} {evs : List Event}
    (htick : ∀ k, rampAfterTick c.rampTicks (f k) = f (k + 1))
    (hkeep : ∀ e ∈ evs, e ≠ issueEvent (.tick, .tick) → ∀ k, rampAfter c (f k) e = f k) (k : Nat) :
    evs.foldl (rampAfter c) (f k) = f (k + ticksIn evs) := by
  induction evs generalizing k with
  | nil => rfl
  | cons e evs ih =>
    obtain ⟨hfirst, hothers⟩ := List.forall_mem_cons.mp hkeep
    rw [List.foldl_cons]
    by_cases he : e = issueEvent (.tick, .tick)
    · subst he
      have hmoves : rampAfter c (f k) (issueEvent (.tick, .tick)) = f (k + 1) := htick k
      rw [hmoves, ih hothers, ticksIn, ticksIn, List.count_cons_self, Nat.add_right_comm, Nat.add_assoc]
    · rw [hfirst he, ih hothers, ticksIn, ticksIn, List.count_cons_of_ne he]

theorem foldl_softStart (c : Config) {evs : List Event} (hstop : issueEvent (.task, .stop) ∉ evs) (k : Nat) :
    evs.foldl (rampAfter c) (softStart c.rampTicks k) = softStart c.rampTicks (k + ticksIn evs) := by
  refine foldl_rampAfter (rampAfterTick_softStart _) (fun e he htick k => ?_) k
  have hne : e ≠ issueEvent (.task, .stop) := fun h => hstop (h ▸ he)
  rw [rampAfter, if_neg hne, if_neg htick, rampAfterStart_softStart, ite_self]

theorem foldl_softStop (c : Config) (a : Nat) {evs : List Event} (hstart : issueEvent (.task, .start) ∉ evs)
    (k : Nat) : evs.foldl (rampAfter c) (softStop a k) = softStop a (k + ticksIn evs) := by
  refine foldl_rampAfter (rampAfterTick_softStop _ _) (fun e he htick k => ?_) k
  have hne : e ≠ issueEvent (.task, .start) := fun h => hstart (h ▸ he)
  rw [rampAfter, if_neg hne, if_neg htick, rampAfterStop_softStop, ite_self]

theorem rampAfterStart_begins {c : Config} {r : Phase × Nat} (hR : 1 ≤ c.rampTicks)
    (hr : r.1 = .idle ∨ r.1 = .stopping ∧ c.startWhileStopping = .restart) :
    rampAfterStart c.startWhileStopping r = softStart c.rampTicks 0 := by
  obtain ⟨p, a⟩ := r
  obtain rfl | ⟨rfl, hm⟩ := hr
  · simp [rampAfterStart, softStart, Nat.lt_of_succ_le hR]
  · simp [rampAfterStart, softStart, Nat.lt_of_succ_le hR, hm]

theorem rampAfterStop_begins {r : Phase × Nat} (hr : r.1 = .starting ∨ r.1 = .running) :
    rampAfterStop r = softStop r.2 0 := by
  obtain ⟨p, a⟩ := r
  obtain rfl | rfl := hr <;> simp [rampAfterStop, softStop]

/-- The course of a soft start under every interleaving without STOP (42_ramp_controller.md R129). -/
theorem run_softStart {evs rest : List Event} (hs : Inv s)
    (hp : s.phase = .idle ∨ s.phase = .stopping ∧ s.cfg.startWhileStopping = .restart)
    (hagenda : s.agenda = issueEvent (.task, .start) :: (evs ++ rest)) (hstop : issueEvent (.task, .stop) ∉ evs)
    (hrun : Sys2Proof.core.run (evs.length + 1) s = .next t) :
    t.cfg = s.cfg ∧ t.agenda = rest ∧ t.ramp = softStart s.cfg.rampTicks (ticksIn evs) := by
  obtain ⟨-, -, -, -, -, hR⟩ := Config.ok_bounds hs.config
  obtain ⟨-, hcfg, hrest, hramp⟩ := run_ramp (evs := issueEvent (.task, .start) :: evs) hs hagenda hrun
  have hbegin : rampAfter s.cfg s.ramp (issueEvent (.task, .start)) = softStart s.cfg.rampTicks 0 :=
    rampAfterStart_begins hR hp
  rw [List.foldl_cons, hbegin, foldl_softStart _ hstop, Nat.zero_add] at hramp
  exact ⟨hcfg, hrest, hramp⟩

/-- The course of a soft stop under every interleaving without START (42_ramp_controller.md R130). -/
theorem run_softStop {evs rest : List Event} (hs : Inv s) (hp : s.phase = .starting ∨ s.phase = .running)
    (hagenda : s.agenda = issueEvent (.task, .stop) :: (evs ++ rest)) (hstart : issueEvent (.task, .start) ∉ evs)
    (hrun : Sys2Proof.core.run (evs.length + 1) s = .next t) :
    Inv t ∧ t.agenda = rest ∧ t.ramp = softStop s.amp (ticksIn evs) := by
  obtain ⟨ht, -, hrest, hramp⟩ := run_ramp (evs := issueEvent (.task, .stop) :: evs) hs hagenda hrun
  have hbegin : rampAfter s.cfg s.ramp (issueEvent (.task, .stop)) = softStop s.amp 0 := rampAfterStop_begins hp
  rw [List.foldl_cons, hbegin, foldl_softStop _ _ hstart, Nat.zero_add] at hramp
  exact ⟨ht, hrest, hramp⟩

/-! ### The bridge beside the ramp -/

theorem PhaseMatchesBridge.running_iff (h : PhaseMatchesBridge s) : s.bridgeState = .running ↔ s.phase ≠ .idle := by
  refine ⟨fun hb hp => ?_, h.runs⟩
  simp [h.idleIff.mp hp] at hb

theorem PhaseMatchesBridge.bridgeState_eq (h : PhaseMatchesBridge s) :
    s.bridgeState = if s.phase = .idle then .stopped else .running := by
  split
  · exact h.idleIff.mp ‹_›
  · exact h.runs ‹_›

theorem exec_stop_bridgeState (h : exec .stop s = .next t) : t.bridgeState = s.bridgeState := by
  obtain ⟨-, rfl⟩ | ⟨-, rfl⟩ := execStop_next h <;> rfl

end

end Sys2Proof.Machine

open Sys2Proof Sys2Proof.Machine

/-- Settles O37: START begins the course `softStart`, which only ticks move on and only STOP could leave. -/
theorem softStartTakesRampTicks : Obligations.SoftStartTakesRampTicks := by
  intro s evs rest hs hp hagenda hstop
  refine ⟨fun t hrun => ?_, ?_⟩
  · obtain ⟨-, -, -, -, -, hR⟩ := Config.ok_bounds hs.config
    obtain ⟨hcfg, hrest, hramp⟩ := run_softStart hs hp hagenda (hstop .task) hrun
    obtain ⟨hphase, hamp⟩ := Prod.ext_iff.mp hramp
    refine ⟨hrest, hamp, hphase, fun hfull => ?_⟩
    have hampR : t.amp = t.cfg.rampTicks := by rw [hcfg]; exact hamp.trans (Nat.min_eq_right hfull)
    unfold amplitude
    rw [hampR, hcfg]
    exact div_self (by exact_mod_cast Nat.ne_of_gt hR)
  · rintro hlive k rfl
    exact run_request_ticks (.inl rfl) hlive hagenda

/-- Settles O38: STOP begins the course `softStop`, which only ticks move on and only START could leave; the invariant
at its end says what the bridge does. -/
theorem softStopTakesTheAmplitudeReached : Obligations.SoftStopTakesTheAmplitudeReached := by
  intro s evs rest hs hp hagenda hstart
  refine ⟨fun t hrun => ?_, ?_⟩
  · obtain ⟨ht, hrest, hramp⟩ := run_softStop hs hp hagenda (hstart .task) hrun
    obtain ⟨hphase, hamp⟩ := Prod.ext_iff.mp hramp
    refine ⟨hrest, hamp, hphase, ?_⟩
    rw [ht.bridge.bridgeState_eq, show t.phase = _ from hphase]
    by_cases hk : max s.amp 1 ≤ ticksIn evs <;> simp only [softStop, hk, if_true, if_false, reduceCtorEq]
  · rintro hlive k rfl
    exact run_request_ticks (.inr rfl) hlive hagenda

/-- Settles O33: each operation follows its column, and the invariant, which it keeps, gives the bridge from the
phase. -/
theorem phaseTransitionTable : Obligations.PhaseTransitionTable := by
  intro s hs
  obtain ⟨u, hu⟩ := exec_total .start s
  obtain ⟨v, hv⟩ := exec_total .stop s
  obtain ⟨w, hw⟩ := exec_total .tick s
  obtain ⟨hup, hua⟩ := Prod.ext_iff.mp (exec_start_ramp hu)
  obtain ⟨hvp, hva⟩ := Prod.ext_iff.mp (exec_stop_ramp hv)
  obtain ⟨hwp, hwa⟩ := Prod.ext_iff.mp (exec_tick_ramp hs hw)
  have hwb := (exec_keeps_inv hs hw).bridge
  refine ⟨u, v, w, hu, hv, hw, exec_stop_bridgeState hv, fun hp => ?_,
    fun hp => ⟨hs.bridge.runs hp, exec_start_bridgeState hu hs.bridge⟩, fun hp => ?_, fun hp => ?_, fun hp => ?_⟩
  all_goals
    simp only [State.ramp, hp, rampAfterStart, rampAfterStop, rampAfterTick] at hup hua hvp hva hwp hwa
  · exact ⟨hs.bridge.idleIff.mp hp, ⟨hup, hua, exec_start_bridgeState hu hs.bridge⟩, ⟨hvp, hva⟩, hwp, hwa,
      hwb.idleIff.mp hwp⟩
  · refine ⟨⟨hup, hua⟩, ⟨hvp, hva⟩, hwa, hwb.runs ?_, hwp⟩
    rw [hwp]
    split <;> simp
  · exact ⟨⟨hup, hua⟩, ⟨hvp, hva⟩, hwp, hwa, hwb.runs (by simp [hwp])⟩
  · refine ⟨fun hm => ?_, fun hm => ?_, ⟨hvp, hva⟩, hwa, fun ha => ?_, fun ha => ?_⟩
    · rw [hm] at hup hua
      exact ⟨hup, hua⟩
    · rw [hm] at hup hua
      exact ⟨hup, hua⟩
    · rw [if_pos ha] at hwp
      have hstopped := hwb.idleIff.mp hwp
      exact ⟨hwp, hstopped, hwb.stopped hstopped⟩
    · rw [if_neg (Nat.not_le.mpr ha)] at hwp
      exact ⟨hwp, hwb.runs (by simp [hwp])⟩

/-- Settles O35: before and after the step the bridge runs exactly away from Idle, and the steps that stop or run it are
the last TICK of a soft stop and START. -/
theorem bridgeStopsOncePerStop : Obligations.BridgeStopsOncePerStop := by
  intro s t hs h
  have hsb := hs.bridge
  have htb := (step_keeps_inv hs h).bridge
  refine ⟨and_congr hsb.running_iff htb.idleIff.symm, fun hsp htp => ?_, fun hsp htp => ?_⟩
  · obtain ⟨hhead, -⟩ := step_stops_bridge h (hsb.runs hsp) (htb.idleIff.mp htp)
    exact hhead
  · obtain ⟨hhead, -⟩ := step_starts_bridge h (hsb.idleIff.mp hsp) (htb.runs htp)
    exact ⟨hhead, htb.runs htp⟩

/-- Settles O34: the three operations where the ramp has nothing to do. -/
theorem repeatedRequestsChangeNothing : Obligations.RepeatedRequestsChangeNothing :=
  fun _ => ⟨exec_stop_unchanged, exec_start_unchanged, execTick_idle⟩

end

section
/-! 43_bridge_driver.md: the register sequences as sequences of one timer, which both timers run alike, and when a timer
agent has a step. -/

namespace Sys2Proof.Machine

open Sys2Proof

/-! ### The register sequences, timer by timer (R148, R151, R152) -/

/-- One primitive on timer A, then on timer B. -/
def onBoth (f : Timer → Timer) : State → State := forBoth fun t => mapTimer t f

/-- What steps (0) to (5) of BridgeStartSeq do to either timer. -/
def timerStartSteps : List (Timer → Timer) :=
  [fun x => { x with ccrPre := 0#16 }, fun x => { x with ccrAct := x.ccrPre }, fun x => { x with cnt := 0#16 },
    fun x => { x with cce := true, ccne := true }, fun x => { x with moe := true }, fun x => { x with cen := true }]

/-- What steps (2) to (4) of BridgeStopSeq, those behind the gating step, do to either timer. -/
def timerStopStepsOnceGated : List (Timer → Timer) :=
  [fun x => { x with cen := false }, fun x => { x with cce := false, ccne := false }, fun x => { x with cnt := 0#16 }]

/-- The steps of a sequence on one timer, one after the other. -/
def runTimer (fs : List (Timer → Timer)) (x : Timer) : Timer := fs.foldl (fun y f => f y) x

theorem bridgeStartSteps_eq : bridgeStartSteps = timerStartSteps.map onBoth := rfl

theorem bridgeStopSteps_eq : bridgeStopSteps = forBoth (setMoe false) :: timerStopStepsOnceGated.map onBoth := rfl

@[simp] theorem onBoth_tmr (f : Timer → Timer) (s : State) (t : TimerId) : (onBoth f s).tmr t = f (s.tmr t) := by
  cases t <;> rfl

/-- Each timer runs through the sequence alone. -/
theorem runSteps_onBoth_tmr (fs : List (Timer → Timer)) (s : State) (t : TimerId) :
    (runSteps (fs.map onBoth) s).tmr t = runTimer fs (s.tmr t) := by
  induction fs generalizing s with
  | nil => rfl
  | cons f fs ih => exact (ih (onBoth f s)).trans (congrArg (runTimer fs) (onBoth_tmr f s t))

theorem bridgeStart_take_tmr (n : Nat) (s : State) (t : TimerId) :
    (runSteps (bridgeStartSteps.take n) s).tmr t = runTimer (timerStartSteps.take n) (s.tmr t) := by
  rw [bridgeStartSteps_eq, ← List.map_take, runSteps_onBoth_tmr]

/-- Step (1) of BridgeStopSeq, with either value, writes the gating bit of both timers and nothing else. -/
theorem setMoe_both_eq (b : Bool) (s : State) :
    forBoth (setMoe b) s = { s with tmrA := { s.tmrA with moe := b }, tmrB := { s.tmrB with moe := b } } := rfl

theorem bridgeStop_take_tmr (n : Nat) (s : State) (t : TimerId) :
    (runSteps (bridgeStopSteps.take (n + 1)) s).tmr t =
      runTimer (timerStopStepsOnceGated.take n) { s.tmr t with moe := false } := by
  calc (runSteps (bridgeStopSteps.take (n + 1)) s).tmr t
      = (runSteps ((timerStopStepsOnceGated.take n).map onBoth) (forBoth (setMoe false) s)).tmr t := by
        rw [bridgeStopSteps_eq, List.take_succ_cons, ← List.map_take]; rfl
    _ = runTimer (timerStopStepsOnceGated.take n) ((forBoth (setMoe false) s).tmr t) := runSteps_onBoth_tmr ..
    _ = _ := by cases t <;> rfl

/-! ### What the first steps of a sequence leave (R155, R156) -/

/-- Before step (4) the start sequence leaves the gating bit as it was. -/
theorem timerStart_take_moe {n : Nat} (hn : n ≤ 4) (x : Timer) :
    (runTimer (timerStartSteps.take n) x).moe = x.moe := by
  interval_cases n <;> rfl

/-- After steps (0) to (2) of the start sequence a timer is zeroed, and until step (5) its counter is not started. -/
theorem timerStart_take_zeroed {n : Nat} (h3 : 3 ≤ n) (h5 : n ≤ 5) (x : Timer) :
    (runTimer (timerStartSteps.take n) x).cnt = 0#16 ∧ (runTimer (timerStartSteps.take n) x).ccrPre = 0#16 ∧
      (runTimer (timerStartSteps.take n) x).ccrAct = 0#16 ∧ (runTimer (timerStartSteps.take n) x).cen = x.cen := by
  interval_cases n <;> exact ⟨rfl, rfl, rfl, rfl⟩

theorem timerStopStepsOnceGated_moe {f : Timer → Timer} (hf : f ∈ timerStopStepsOnceGated) (x : Timer) :
    (f x).moe = x.moe := by
  simp only [timerStopStepsOnceGated, List.mem_cons, List.not_mem_nil, or_false] at hf
  obtain rfl | rfl | rfl := hf <;> rfl

/-- Behind the gating step the stop sequence leaves the gating bit as it was. -/
theorem timerStop_take_moe (n : Nat) (x : Timer) :
    (runTimer (timerStopStepsOnceGated.take n) x).moe = x.moe :=
  List.foldlRecOn (motive := fun y => y.moe = x.moe) _ _ rfl fun y hy _ hf =>
    (timerStopStepsOnceGated_moe (List.mem_of_mem_take hf) y).trans hy

/-- A timer with its gating bit off enables neither of its outputs (10_state.md R34). -/
theorem outputs_off_of_moe {s : State} {t : TimerId} (h : (s.tmr t).moe = false) :
    outMainEn s t = false ∧ outCompEn s t = false := by
  simp only [outMainEn, outCompEn, h, Bool.false_and, and_self]

/-! ### The timer agents' steps (R149, R150) -/

section

variable {s s' : State} {t : TimerId} {c : Half} {rest : List Event}

@[simp] theorem tmr_withAgenda (s : State) (es : List Event) (t : TimerId) :
    ({ s with agenda := es } : State).tmr t = s.tmr t := by
  cases t <;> rfl

theorem step_update (hlive : s.live = true) (hagenda : s.agenda = .update t :: rest) (hcen : (s.tmr t).cen = true) :
    step s = .next (mapTimer t (fun x => { x with ccrAct := x.ccrPre }) { s with agenda := rest }) :=
  (step_entry hlive hagenda).trans (if_pos (by rwa [tmr_withAgenda]))

theorem step_count (hlive : s.live = true) (hagenda : s.agenda = .count t c :: rest) (hcen : (s.tmr t).cen = true)
    (hle : c.toNat ≤ s.cfg.arr) :
    step s = .next (mapTimer t (fun x => { x with cnt := c }) { s with agenda := rest }) :=
  (step_entry hlive hagenda).trans (if_pos ⟨by rwa [tmr_withAgenda], hle⟩)

theorem cen_of_step_update (hlive : s.live = true) (hagenda : s.agenda = .update t :: rest) (h : step s = .next s') :
    (s.tmr t).cen = true := by
  obtain ⟨hcen, -⟩ := timerUpdate_next ((step_entry hlive hagenda).symm.trans h)
  rwa [tmr_withAgenda] at hcen

theorem cen_and_le_of_step_count (hlive : s.live = true) (hagenda : s.agenda = .count t c :: rest)
    (h : step s = .next s') : (s.tmr t).cen = true ∧ c.toNat ≤ s.cfg.arr := by
  obtain ⟨hcen, hle, -⟩ := timerCount_next ((step_entry hlive hagenda).symm.trans h)
  rw [tmr_withAgenda] at hcen
  exact ⟨hcen, hle⟩

end

end Sys2Proof.Machine

open Sys2Proof Sys2Proof.Machine

/-- Settles O42: the gating bit, off in a stopped bridge, is not written before step (4), and by then steps (0) to (2)
have zeroed both timers, whose counters step (5) starts. -/
theorem outputsEnabledOnlyWhenZeroed : Obligations.OutputsEnabledOnlyWhenZeroed := by
  intro s n t hs hstopped
  obtain ⟨hcen, -, -, hmoe⟩ := hs.stopped hstopped t
  refine ⟨fun h4 => outputs_off_of_moe ?_, fun h3 h5 => ?_⟩
  · rw [bridgeStart_take_tmr, timerStart_take_moe h4, hmoe]
  · rw [bridgeStart_take_tmr]
    obtain ⟨hcnt, hpre, hact, hkept⟩ := timerStart_take_zeroed h3 h5 (s.tmr t)
    exact ⟨hcnt, hpre, hact, hkept.trans hcen⟩

/-- Settles O28: an entry of a timer agent is its timer's step where that is enabled, and only there is it a step. -/
theorem timerAgentsStepWhileCounting : Obligations.TimerAgentsStepWhileCounting := by
  intro s t c e rest hlive hagenda
  refine ⟨?_, ?_, ?_, ?_, fun he hoff s' hstep => ?_, ?_⟩
  · rintro rfl hcen
    exact step_update hlive hagenda hcen
  · rintro rfl hcen
    exact step_update hlive hagenda hcen
  · rintro rfl hcen hle
    exact step_count hlive hagenda hcen hle
  · rintro rfl hcen hle
    exact step_count hlive hagenda hcen hle
  · have hoff : (s.tmr t).cen = false := by cases t <;> exact hoff
    have hcen : (s.tmr t).cen = true := by
      obtain rfl | rfl := he
      · exact cen_of_step_update hlive hagenda hstep
      · exact (cen_and_le_of_step_count hlive hagenda hstep).1
    simp [hoff] at hcen
  · rintro rfl hlt s' hstep
    obtain ⟨-, hle⟩ := cen_and_le_of_step_count hlive hagenda hstep
    exact absurd hle (Nat.not_le.mpr hlt)

/-- Settles O43: the first step is the gating of both timers, and no later step of the sequence opens it again. -/
theorem outputsGatedFirstOnStop : Obligations.OutputsGatedFirstOnStop := by
  refine fun s n t => ⟨setMoe_both_eq false s, fun hn => outputs_off_of_moe ?_⟩
  obtain ⟨k, rfl⟩ := Nat.exists_eq_add_of_le' hn
  rw [bridgeStop_take_tmr, timerStop_take_moe]

end

section
/-! 44_modulator.md: what INIT, START, STOP and TICK do, the duty a tick writes, and the duties of a soft start and a
soft stop, tick by tick. -/

namespace Sys2Proof.Machine

open Sys2Proof

section

variable {s t : State} {i : Instr} {T : Half} {p : Phase} {a n k : Nat} {rest : List Event}

/-! ### INIT, START and STOP -/

theorem exec_init_stopped (hb : s.bridgeState = .stopped) :
    exec .init s = .next (respond .task .ack (initState s)) := by
  simp only [exec, execInit, hb]

theorem exec_init_running (hb : s.bridgeState = .running) : exec .init s = .next (refuse .initWhileRunning s) := by
  simp only [exec, execInit, hb]

theorem rampStart_begins (h : s.phase = .idle ∨ s.phase = .stopping ∧ s.cfg.startWhileStopping = .restart) :
    rampStart s = { s with phase := .starting, amp := 0 } := by
  obtain ⟨-, hr⟩ | ⟨hkeep, -⟩ := rampStart_cases s
  · exact hr
  · obtain hp | ⟨hp, hm⟩ := h
    · simp [hp] at hkeep
    · simp [hp, hm] at hkeep

/-- START from Idle: BridgeStartSeq, then RampStart (44_modulator.md R174). -/
theorem exec_start_idle (hp : s.phase = .idle) :
    exec .start s = .next (respond .task .ack { bridgeStartSeq s with phase := .starting, amp := 0 }) := by
  have hidle : (bridgeStartSeq s).phase = .idle := by rw [bridgeStartSeq_eq]; exact hp
  rw [exec_start, if_pos hp, rampStart_begins (.inl hidle)]

theorem exec_start_restart (hp : s.phase = .stopping) (hm : s.cfg.startWhileStopping = .restart) :
    exec .start s = .next (respond .task .ack { s with phase := .starting, amp := 0 }) := by
  rw [exec_start, if_neg (by simp [hp]), rampStart_begins (.inr ⟨hp, hm⟩)]

theorem exec_start_ignored (hp : s.phase = .stopping) (hm : s.cfg.startWhileStopping = .ignore) :
    exec .start s = .next (respond .task .ack s) := by
  rw [exec_start, if_neg (by simp [hp])]
  simp only [rampStart, hp, hm]

theorem exec_stop_begins (hp : s.phase = .starting ∨ s.phase = .running) :
    exec .stop s = .next (respond .task .ack { s with phase := .stopping }) := by
  obtain ⟨-, hr⟩ | ⟨hkeep, -⟩ := rampStop_cases s
  · rw [exec_stop, hr]
  · rcases hp with hp | hp <;> simp [hp] at hkeep

/-! ### Frames -/

/-- START, STOP and TICK write the ramp, the table index, the bridge, the timers and the model's records of answers and
draws, and nothing else. -/
theorem exec_drive_keeps (hi : i = .start ∨ i = .stop ∨ i = .tick) (h : exec i s = .next t) :
    ∃ p a k b ta tb r d, t = { s with
      phase := p, amp := a, tickIndex := k, bridgeState := b, tmrA := ta, tmrB := tb, responses := r,
      drawIndex := d } := by
  obtain rfl | rfl | rfl := hi
  · obtain ⟨-, rfl⟩ | ⟨-, -, rfl⟩ | ⟨-, rfl⟩ := execStart_next h
    · rw [bridgeStartSeq_eq]
      exact ⟨_, _, _, _, _, _, _, _, rfl⟩
    · exact ⟨_, _, _, _, _, _, _, _, rfl⟩
    · exact ⟨_, _, _, _, _, _, _, _, rfl⟩
  · obtain ⟨-, rfl⟩ | ⟨-, rfl⟩ := execStop_next h <;> exact ⟨_, _, _, _, _, _, _, _, rfl⟩
  · obtain ⟨_, _, _, _, _, _, _, ht, -⟩ := execTick_keeps s
    exact ⟨_, _, _, _, _, _, _, _, Host.Outcome.next.inj (h.symm.trans ht)⟩

theorem exec_arr_eq (h : exec i s = .next t) (u : TimerId) : (t.tmr u).arr = (s.tmr u).arr := by
  obtain ⟨d, hd, heq⟩ := exec_drive h
  rw [tmr_eq_of_drive_eq heq, hd.arr_eq]

theorem exec_start_frame (h : exec .start s = .next t) : t.tickIndex = s.tickIndex ∧ t.drawIndex = s.drawIndex := by
  obtain ⟨-, rfl⟩ | ⟨-, -, rfl⟩ | ⟨-, rfl⟩ := execStart_next h <;> simp [bridgeStartSeq_eq]

theorem exec_stop_frame (h : exec .stop s = .next t) :
    t.bridgeState = s.bridgeState ∧ t.tmrA = s.tmrA ∧ t.tmrB = s.tmrB ∧ t.amp = s.amp ∧
      t.tickIndex = s.tickIndex ∧ t.drawIndex = s.drawIndex := by
  obtain ⟨-, rfl⟩ | ⟨-, rfl⟩ := execStop_next h <;> simp

theorem exec_tick_ccrAct (h : exec .tick s = .next t) (u : TimerId) : (t.tmr u).ccrAct = (s.tmr u).ccrAct := by
  obtain ⟨_, _, _, _, _, _, _, ht, -, -, hA, hB⟩ := execTick_keeps s
  obtain rfl := Host.Outcome.next.inj (ht.symm.trans h)
  cases u
  · exact hA
  · exact hB

/-! ### TICK by the stepped amplitude (R128, R176) -/

theorem amp_add_rampStep (hp : s.phase ≠ .idle) :
    (s.amp : Int) + rampStep s.phase = if s.phase = .stopping then (s.amp : Int) - 1 else (s.amp : Int) + 1 := by
  cases h : s.phase with
  | idle => exact absurd h hp
  | starting | running | stopping => rfl

theorem advance_reaches_full (hp : s.phase ≠ .idle) (hfull : (s.cfg.rampTicks : Int) ≤ s.amp + rampStep s.phase) :
    advance s = ({ s with amp := s.cfg.rampTicks, phase := .running }, false) := by
  rw [advance, if_neg hp]
  exact if_pos hfull

theorem advance_reaches_zero (hp : s.phase ≠ .idle) (hfull : s.amp + rampStep s.phase < (s.cfg.rampTicks : Int))
    (hzero : s.amp + rampStep s.phase ≤ 0) :
    advance s = (bridgeStopSeq { s with amp := 0, phase := .idle }, true) := by
  rw [advance, if_neg hp]
  exact (if_neg (not_le.mpr hfull)).trans (if_pos hzero)

theorem advance_between (hp : s.phase ≠ .idle) (hfull : s.amp + rampStep s.phase < (s.cfg.rampTicks : Int))
    (hzero : 0 < s.amp + rampStep s.phase) :
    advance s = ({ s with amp := (s.amp + rampStep s.phase).toNat }, false) := by
  rw [advance, if_neg hp]
  exact (if_neg (not_le.mpr hfull)).trans (if_neg (not_le.mpr hzero))

/-- A tick that does not reach Idle writes the duty of its entry at the stepped amplitude. -/
theorem tickWrites_of_advance (hok : s.cfg.ok = true) (hT : s.sineTable[s.tickIndex]? = some T)
    (hp : s.phase ≠ .idle) (hadvance : advance s = ({ s with amp := a, phase := p }, false))
    (hle : a ≤ s.cfg.rampTicks) : TickWrites s T a p := by
  obtain ⟨-, -, -, -, -, hR⟩ := Config.ok_bounds hok
  have hduty : currentDuty { s with amp := a, phase := p } = duty s.cfg s.drawIndex T.toNat a := by
    simp [currentDuty, sineEntry, hT]
  refine ⟨currentDuty { s with amp := a, phase := p }, (nextDraw { s with amp := a, phase := p }).drawIndex,
    ?_, ?_, fun hfloor => ?_, ?_⟩
  · rw [hduty]
    exact duty_admitted _ _ _ _ hR
  · rw [hduty]
    exact duty_le _ _ _ _ hR hle
  · simp [nextDraw, hfloor]
  · rw [exec, execTick_writes hp hadvance, writeDuty_eq]
    rfl

theorem exec_tick_reaches_zero (hp : s.phase ≠ .idle) (hfull : s.amp + rampStep s.phase < (s.cfg.rampTicks : Int))
    (hzero : s.amp + rampStep s.phase ≤ 0) :
    exec .tick s = .next (respond .tick .ack
      { s with
        amp := 0, phase := .idle, bridgeState := .stopped, tmrA := s.tmrA.stopped, tmrB := s.tmrB.stopped }) := by
  rw [exec, execTick_stops hp (advance_reaches_zero hp hfull hzero), bridgeStopSeq_eq]

/-! ### The duty a tick writes -/

/-- With FLOOR the duty falls short of the exact product by less than one count (44_modulator.md R177). -/
theorem AdmittedDuty.floor_tolerance {c : Config} {T a v : Nat} (h : AdmittedDuty c T a v)
    (hround : c.dutyRound = .floor) : 0 ≤ dutyProduct c T a - v ∧ dutyProduct c T a - v < 1 := by
  obtain rfl | ⟨hany, -⟩ := h
  · exact ⟨sub_nonneg.mpr (Nat.floor_le (dutyProduct_nonneg c T a)),
      sub_lt_iff_lt_add'.mpr (Nat.lt_floor_add_one _)⟩
  · simp [hround] at hany

/-- Every admitted duty is within one count of the exact product (44_modulator.md R177). -/
theorem AdmittedDuty.tolerance {c : Config} {T a v : Nat} (h : AdmittedDuty c T a v) :
    |dutyProduct c T a - v| < 1 := by
  have hnonneg := dutyProduct_nonneg c T a
  rw [abs_sub_lt_iff]
  obtain rfl | ⟨-, rfl⟩ := h
  · have hle := Nat.floor_le hnonneg
    have hlt := Nat.lt_floor_add_one (dutyProduct c T a)
    constructor <;> linarith
  · have hle := Nat.le_ceil (dutyProduct c T a)
    have hlt := Nat.ceil_lt_add_one hnonneg
    constructor <;> linarith

/-- `t` is the state after a tick in `s` that wrote a duty of the entry `T`, which bounds it. -/
structure DutyWritten (s : State) (T : Half) (t : State) : Prop where
  entry : s.sineTable[s.tickIndex]? = some T
  entry_le : T.toNat ≤ s.cfg.arr
  admitted : AdmittedDuty s.cfg T.toNat t.amp t.tmrA.ccrPre.toNat
  le : t.tmrA.ccrPre.toNat ≤ T.toNat
  both : t.tmrB.ccrPre = t.tmrA.ccrPre
  tickIndex : t.tickIndex = (s.tickIndex + 1) % s.cfg.sineSamples

/-- A duty written fits the 16 bits of the preloads, as its entry does. -/
theorem TickWrites.dutyWritten (h : TickWrites s T a p) (hT : s.sineTable[s.tickIndex]? = some T)
    (hle : T.toNat ≤ s.cfg.arr) (hexec : exec .tick s = .next t) : DutyWritten s T t := by
  obtain ⟨v, k, hadmitted, hv, -, htick⟩ := h
  obtain rfl := Host.Outcome.next.inj (htick.symm.trans hexec)
  have hfits : (BitVec.ofNat 16 v).toNat = v := Nat.mod_eq_of_lt (hv.trans_lt T.isLt)
  exact ⟨hT, hle, hfits.symm ▸ hadmitted, hfits.symm ▸ hv, rfl, rfl⟩

theorem exec_tick_dutyWritten (hs : Inv s) (hp : s.phase ≠ .idle) (h : exec .tick s = .next t)
    (ht : t.phase ≠ .idle) : ∃ T, DutyWritten s T t := by
  obtain ⟨T, hT, hle⟩ := hs.entry
  obtain ⟨-, -, hadvance⟩ | ⟨p, a, hramp, hadvance⟩ := advance_cases hp
  · obtain rfl := Host.Outcome.next.inj ((execTick_stops hp hadvance).symm.trans h)
    exact absurd (by rw [bridgeStopSeq_eq]; rfl) ht
  · exact ⟨T, (tickWrites_of_advance hs.config hT hp hadvance hramp.le).dutyWritten hT hle h⟩

/-- No tick leaves Idle. -/
theorem phase_ne_idle_of_tick (h : exec .tick s = .next t) (ht : t.phase ≠ .idle) : s.phase ≠ .idle := by
  intro hp
  obtain rfl := Host.Outcome.next.inj ((execTick_idle hp).symm.trans h)
  exact ht hp

/-- The tick that reaches Idle writes no duty (44_modulator.md R176). -/
theorem exec_tick_into_idle (hp : s.phase ≠ .idle) (h : exec .tick s = .next t) (ht : t.phase = .idle) :
    t.tmrA.ccrPre = s.tmrA.ccrPre ∧ t.tmrB.ccrPre = s.tmrB.ccrPre ∧ t.tickIndex = s.tickIndex := by
  obtain ⟨hidle, -⟩ | ⟨-, -, rfl⟩ | ⟨-, p, a, hramp, rfl⟩ := execTick_next h
  · exact absurd hidle hp
  · rw [bridgeStopSeq_eq]
    exact ⟨rfl, rfl, rfl⟩
  · exact absurd (by simpa using ht) (hramp.ne_idle hp)

/-! ### A request and the ticks after it (R179, R180) -/

theorem run_succ_last (h : Sys2Proof.core.run (n + 1) s = .next t) :
    ∃ u : State, Sys2Proof.core.run n s = .next u ∧ step u = .next t := by
  induction n generalizing s with
  | zero =>
    obtain ⟨s1, hstep, hrun⟩ := run_succ_next h
    rw [run_zero] at hrun
    cases hrun
    exact ⟨s, run_zero s, hstep⟩
  | succ n ih =>
    obtain ⟨s1, hstep, hrun⟩ := run_succ_next h
    obtain ⟨u, hu, hlast⟩ := ih hrun
    exact ⟨u, (run_succ hstep n).trans hu, hlast⟩

theorem length_tickEvents (k : Nat) : (tickEvents k).length = k := List.length_replicate

theorem ticksIn_tickEvents (k : Nat) : ticksIn (tickEvents k) = k := List.count_replicate_self

theorem tickEvents_succ_append (k : Nat) (rest : List Event) :
    tickEvents (k + 1) ++ rest = tickEvents k ++ ownerEvent .tick :: rest := by
  rw [tickEvents, List.replicate_succ', List.append_assoc]
  rfl

theorem request_notMem_tickEvents (hi : i = .start ∨ i = .stop) (k : Nat) : ownerEvent i ∉ tickEvents k := by
  intro hmem
  have heq : ownerEvent i = ownerEvent .tick := List.eq_of_mem_replicate hmem
  obtain rfl | rfl := hi <;> exact absurd heq (by decide)

/-- The last tick after a request, taken in a state that meets the invariant. -/
theorem run_request_last_tick (hs : Inv s)
    (hagenda : s.agenda = ownerEvent i :: (tickEvents k ++ ownerEvent .tick :: rest))
    (hrun : Sys2Proof.core.run (k + 1 + 1) s = .next t) :
    ∃ u : State, Sys2Proof.core.run (k + 1) s = .next u ∧ u.cfg = s.cfg ∧ Inv (popAgenda u) ∧
      exec .tick (popAgenda u) = .next t := by
  have hlength : (ownerEvent i :: tickEvents k).length = k + 1 := by rw [List.length_cons, length_tickEvents]
  obtain ⟨u, hu, hlast⟩ := run_succ_last hrun
  obtain ⟨hinv, hcfg, hnext, -⟩ := run_ramp (evs := ownerEvent i :: tickEvents k) hs hagenda (hlength ▸ hu)
  have hpop : popAgenda u = { u with agenda := rest } := by simp [popAgenda, hnext]
  refine ⟨u, hu, hcfg, hinv.withAgenda _, ?_⟩
  rw [hpop]
  exact (step_issued (i := .tick) (step_next hlast).1 hnext).symm.trans hlast

theorem request_tickIndex (hi : i = .start ∨ i = .stop) (h : exec i s = .next t) : t.tickIndex = s.tickIndex := by
  obtain rfl | rfl := hi
  · obtain ⟨htick, -⟩ := exec_start_frame h
    exact htick
  · obtain ⟨-, -, -, -, htick, -⟩ := exec_stop_frame h
    exact htick

/-- While the ramp does not reach Idle, the table index moves on by one at each tick after the request. -/
theorem run_request_tickIndex (hi : i = .start ∨ i = .stop) (hs : Inv s)
    (hagenda : s.agenda = ownerEvent i :: (tickEvents k ++ rest)) (hrun : Sys2Proof.core.run (k + 1) s = .next t)
    (ht : t.phase ≠ .idle) : t.tickIndex = (s.tickIndex + k) % s.cfg.sineSamples := by
  induction k generalizing t rest with
  | zero =>
    obtain ⟨u, hstep, hu⟩ := run_succ_next hrun
    rw [run_zero] at hu
    cases hu
    have hexec := (step_issued (step_next hstep).1 hagenda).symm.trans hstep
    rw [request_tickIndex hi hexec, Nat.add_zero, Nat.mod_eq_of_lt hs.indices.tick]
  | succ k ih =>
    rw [tickEvents_succ_append] at hagenda
    obtain ⟨u, hu, hcfg, hinv, hexec⟩ := run_request_last_tick hs hagenda hrun
    have hp := phase_ne_idle_of_tick hexec ht
    obtain ⟨T, hduty⟩ := exec_tick_dutyWritten hinv hp hexec ht
    have htick : t.tickIndex = (u.tickIndex + 1) % u.cfg.sineSamples := hduty.tickIndex
    rw [htick, hcfg, ih hagenda hu hp, Nat.mod_add_mod, Nat.add_assoc]

/-- The duty of tick `k + 1` after the request, unless that tick reaches Idle. -/
theorem run_request_duty (hi : i = .start ∨ i = .stop) (hs : Inv s)
    (hagenda : s.agenda = ownerEvent i :: (tickEvents (k + 1) ++ rest))
    (hrun : Sys2Proof.core.run (k + 1 + 1) s = .next t) (ht : t.phase ≠ .idle) :
    ∃ T, s.sineTable[(s.tickIndex + k) % s.cfg.sineSamples]? = some T ∧
      AdmittedDuty s.cfg T.toNat t.amp t.tmrA.ccrPre.toNat ∧ t.tmrB.ccrPre = t.tmrA.ccrPre := by
  rw [tickEvents_succ_append] at hagenda
  obtain ⟨u, hu, hcfg, hinv, hexec⟩ := run_request_last_tick hs hagenda hrun
  have hp := phase_ne_idle_of_tick hexec ht
  obtain ⟨T, hT, -, hadmitted, -, hboth, -⟩ := exec_tick_dutyWritten hinv hp hexec ht
  have htable : u.sineTable = s.sineTable := by rw [hs.table, ← hcfg]; exact hinv.table
  refine ⟨T, ?_, hcfg ▸ hadmitted, hboth⟩
  rw [← run_request_tickIndex hi hs hagenda hu hp, ← htable]
  exact hT

theorem run_request_exists (hi : i = .start ∨ i = .stop) (hlive : s.live = true)
    (hagenda : s.agenda = ownerEvent i :: (tickEvents k ++ rest)) :
    ∃ t : State, Sys2Proof.core.run (k + 1) s = .next t := by
  obtain ⟨t, hrun⟩ := run_request_ticks hi hlive hagenda
  exact ⟨t, length_tickEvents k ▸ hrun⟩

/-- A soft start from Idle, `k` ticks on: never in Idle again. -/
theorem run_start_ticks (hs : Inv s) (hp : s.phase = .idle)
    (hagenda : s.agenda = ownerEvent .start :: (tickEvents k ++ rest))
    (hrun : Sys2Proof.core.run (k + 1) s = .next t) : t.phase ≠ .idle ∧ t.amp = min k s.cfg.rampTicks := by
  rw [← length_tickEvents k] at hrun
  obtain ⟨-, -, hramp⟩ := run_softStart hs (.inl hp) hagenda (request_notMem_tickEvents (.inr rfl) k) hrun
  rw [ticksIn_tickEvents] at hramp
  have hphase : t.phase = if k < s.cfg.rampTicks then .starting else .running := congrArg Prod.fst hramp
  refine ⟨?_, congrArg Prod.snd hramp⟩
  rw [hphase]
  split <;> simp

/-- A soft stop from Running, `k` ticks on: in Idle from tick `R` on. -/
theorem run_stop_ticks (hs : Inv s) (hp : s.phase = .running)
    (hagenda : s.agenda = ownerEvent .stop :: (tickEvents k ++ rest))
    (hrun : Sys2Proof.core.run (k + 1) s = .next t) :
    Inv t ∧ (t.phase = .idle ↔ s.cfg.rampTicks ≤ k) ∧ t.amp = s.cfg.rampTicks - k := by
  obtain ⟨-, -, -, -, -, hR⟩ := Config.ok_bounds hs.config
  rw [← length_tickEvents k] at hrun
  obtain ⟨ht, -, hramp⟩ := run_softStop hs (.inr hp) hagenda (request_notMem_tickEvents (.inl rfl) k) hrun
  rw [ticksIn_tickEvents, hs.amplitude.running hp] at hramp
  have hphase : t.phase = if max s.cfg.rampTicks 1 ≤ k then .idle else .stopping := congrArg Prod.fst hramp
  refine ⟨ht, ?_, congrArg Prod.snd hramp⟩
  rw [hphase, Nat.max_eq_left hR]
  simp

end

end Sys2Proof.Machine

open Sys2Proof Sys2Proof.Machine

/-- Settles O27: TICK goes the way of Advance, by the stepped amplitude; where that does not reach Idle it writes a
duty. -/
theorem tickIsOneModulationUpdate : Obligations.TickIsOneModulationUpdate := by
  intro s T a hok hT
  refine ⟨execTick_idle, fun hp ha => ?_⟩
  rw [← amp_add_rampStep hp] at ha
  subst ha
  refine ⟨fun hfull => ?_, exec_tick_reaches_zero hp, fun hfull hzero => ?_⟩
  · exact tickWrites_of_advance hok hT hp (advance_reaches_full hp hfull) le_rfl
  · exact tickWrites_of_advance hok hT hp (advance_between hp hfull hzero) (by omega)

/-- Settles O30: the frame of the three operations together, and of each. -/
theorem driveSideFrame : Obligations.DriveSideFrame := by
  intro s t i hi h
  refine ⟨?_, ?_, ?_, ?_⟩
  · have harr := exec_arr_eq h
    obtain ⟨_, _, _, _, _, _, _, _, rfl⟩ := exec_drive_keeps hi h
    exact ⟨rfl, rfl, fun _ => rfl, rfl, rfl, rfl, rfl, rfl, rfl, rfl, rfl, harr⟩
  · rintro rfl
    exact exec_stop_frame h
  · rintro rfl
    exact exec_start_frame h
  · rintro rfl
    exact exec_tick_ccrAct h

/-- Settles O39: the entry bounds the duty written, and each admitted rounding is within its tolerance. -/
theorem dutyIsBounded : Obligations.DutyIsBounded := by
  intro s t hs hp h ht
  obtain ⟨T, hT, hle, hadmitted, hv, hboth, -⟩ := exec_tick_dutyWritten hs hp h ht
  exact ⟨T, hT, hboth.symm, hv, hle, hadmitted.floor_tolerance, fun _ => hadmitted.tolerance⟩

/-- Settles O40: a soft start does not come back to Idle, so every tick writes the duty of its entry at the amplitude
reached and moves the table index on. -/
theorem dutySequenceAfterStart : Obligations.DutySequenceAfterStart := by
  intro s k rest hs hlive hp hk hagenda
  obtain ⟨k, rfl⟩ := Nat.exists_eq_add_of_le' hk
  obtain ⟨t, hrun⟩ := run_request_exists (.inl rfl) hlive hagenda
  obtain ⟨ht, hamp⟩ := run_start_ticks hs hp hagenda hrun
  obtain ⟨T, hT, hadmitted, hboth⟩ := run_request_duty (.inl rfl) hs hagenda hrun ht
  exact ⟨t, T, hrun, hT, hamp ▸ hadmitted, hboth, run_request_tickIndex (.inl rfl) hs hagenda hrun ht⟩

/-- Settles O41: before tick `R` as in a soft start; tick `R` reaches Idle, so it leaves preloads and table index as
tick `R - 1`, or the STOP itself, left them. -/
theorem dutySequenceAfterStop : Obligations.DutySequenceAfterStop := by
  intro s k rest hs hlive hp hk hagenda
  obtain ⟨k, rfl⟩ := Nat.exists_eq_add_of_le' hk
  obtain ⟨t, hrun⟩ := run_request_exists (.inr rfl) hlive hagenda
  obtain ⟨ht, hidle, hamp⟩ := run_stop_ticks hs hp hagenda hrun
  refine ⟨fun hlt => ?_, fun hlast => ?_⟩
  · obtain ⟨T, hT, hadmitted, hboth⟩ :=
      run_request_duty (.inr rfl) hs hagenda hrun (mt hidle.mp (Nat.not_le.mpr hlt))
    exact ⟨t, T, hrun, hT, hamp ▸ hadmitted, hboth⟩
  · rw [tickEvents_succ_append] at hagenda
    obtain ⟨u, hu, -, -, hexec⟩ := run_request_last_tick (i := .stop) hs hagenda hrun
    obtain ⟨-, huidle, -⟩ := run_stop_ticks hs hp hagenda hu
    have hup : u.phase ≠ .idle := mt huidle.mp (by omega)
    have htp : t.phase = .idle := hidle.mpr hlast.ge
    obtain ⟨hA, hB, htick⟩ := exec_tick_into_idle (s := popAgenda u) hup hexec htp
    refine ⟨u, t, hu, hrun, htp, ht.bridge.idleIff.mp htp, hA, hB, ?_⟩
    rw [htick, popAgenda_tickIndex, ← hlast]
    exact run_request_tickIndex (.inr rfl) hs hagenda hu hup

/-- Settles O14: the two ways of INIT, by the bridge state. -/
theorem initClearsTheStoppedBlock : Obligations.InitClearsTheStoppedBlock :=
  fun _ => ⟨exec_init_stopped, exec_init_running⟩

/-- Settles O25: START in each phase, with the timers as BridgeStartSeq leaves them. -/
theorem startBeginsASoftStart : Obligations.StartBeginsASoftStart := by
  refine fun s => ⟨fun hp => ?_, exec_start_restart, exec_start_ignored, exec_start_unchanged⟩
  rw [exec_start_idle hp, bridgeStartSeq_eq]
  rfl

/-- Settles O26: STOP in each phase. -/
theorem stopBeginsASoftStop : Obligations.StopBeginsASoftStop :=
  fun _ => ⟨exec_stop_begins, exec_stop_unchanged⟩

end

section
/-! 60_exceptions.md: the reasons to refuse an issued word, and the halt step. -/

namespace Sys2Proof.Machine

open Sys2Proof

variable {s : State} {w : Word} {i : Instr} {r : RefusalReason}

/-! ### The owner of a word that its fields spell out -/

/-- The owners of the opcode map by the opcode's number (30_encoding.md R74). -/
theorem owner_eq_of_opcode {op : Nat} (h : op = i.opcode.toNat) :
    i.owner = if op = 2 then .rx else if op = 7 then .tick else .task := by
  subst h
  cases i <;> rfl

/-- Opcodes 1 to 7 with RSV zero, and IMM8 zero outside BYTE_RX, spell the operation of that opcode. -/
theorem exists_decode_of_fields (hlo : 1 ≤ w.toNat / 4096) (hhi : w.toNat / 4096 ≤ 7)
    (hrsv : w.toNat / 256 % 16 = 0) (himm : w.toNat / 4096 = 2 ∨ w.toNat % 256 = 0) :
    ∃ i, decode w = .op i ∧ w.toNat / 4096 = i.opcode.toNat := by
  have spelled (i : Instr) (hop : w.toNat / 4096 = i.opcode.toNat) (hi : w.toNat % 256 = i.imm.toNat) :
      ∃ i, decode w = .op i ∧ w.toNat / 4096 = i.opcode.toNat :=
    ⟨i, decode_of_fields i hop hrsv hi, hop⟩
  by_cases hrx : w.toNat / 4096 = 2
  · exact spelled (.byteRx (immField w)) hrx (immField_toNat w).symm
  have hzero := himm.resolve_left hrx
  obtain h | h | h | h | h | h : w.toNat / 4096 = 1 ∨ w.toNat / 4096 = 3 ∨ w.toNat / 4096 = 4 ∨
      w.toNat / 4096 = 5 ∨ w.toNat / 4096 = 6 ∨ w.toNat / 4096 = 7 := by omega
  · exact spelled .init h hzero
  · exact spelled .decode h hzero
  · exact spelled .cmdRead h hzero
  · exact spelled .start h hzero
  · exact spelled .stop h hzero
  · exact spelled .tick h hzero

/-! ### A word refused -/

theorem issue_invalid (h : decode w = .invalid r) (g : Agent) (s : State) : issue g w s = .next (refuse r s) := by
  rw [issue, h]

theorem issue_not_owned (h : decode w = .op i) (hne : g ≠ i.owner) (s : State) :
    issue g w s = .next (refuse .wrongAgent s) := by
  simp only [issue, h, if_neg hne.symm]

theorem issue_init_running (h : decode w = .op .init) (hb : s.bridgeState = .running) :
    issue .task w s = .next (refuse .initWhileRunning s) :=
  (issue_owned h rfl s).trans (exec_init_running hb)

/-! ### A block halted or refused -/

/-- The halted bit is looked at before the refused bit. -/
theorem step_of_halted (hok : s.cfg.ok = true) (h : s.halted = true) : step s = .fault .fatalHardwareFault := by
  simp [step, hok, h]

end Sys2Proof.Machine

open Sys2Proof Sys2Proof.Machine

/-- Settles O7: the decoder gives the first two reasons, the owner of the operation spelled the third, INIT itself the
fourth; each refusal is the word's whole step. -/
theorem refusalReasonsInOrder : Obligations.RefusalReasonsInOrder := by
  refine ⟨?_, fun s hrefused => ?_, fun s hcfg t => ?_⟩
  · rintro s g w rest op rsv imm hlive hagenda rfl rfl rfl r hreason
    have hissue : issue g w { s with agenda := rest } = .next (refuse r { s with agenda := rest }) := by
      obtain ⟨rfl, hop⟩ | ⟨rfl, hlo, hhi, hrsv | ⟨hop, himm⟩⟩ | ⟨rfl, hlo, hhi, hrsv, himm, hagent⟩ |
        ⟨rfl, hop, hrsv, himm, rfl, hbridge⟩ := hreason
      · exact issue_invalid (decode_reservedOpcode hop) g _
      · exact issue_invalid (decode_reservedBits_of_rsv hlo hhi hrsv) g _
      · exact issue_invalid (decode_reservedBits_of_imm hlo hhi hop himm) g _
      · obtain ⟨i, hdecode, hop⟩ := exists_decode_of_fields hlo hhi hrsv himm
        rw [← owner_eq_of_opcode hop] at hagent
        exact issue_not_owned hdecode hagent _
      · exact issue_init_running (decode_of_fields .init hop hrsv himm) hbridge
    exact (step_entry hlive hagenda).trans hissue
  · have hfinal (t : State) := (modelBitsAreFinal s t .halt).2 (.inl hrefused)
    exact ⟨(hfinal s).2, fun t => (hfinal t).1⟩
  · rw [step_of_config_not_ok hcfg]
    exact nofun

/-- Settles O8: the halt is the whole step, and `step` looks at the halted bit before anything but the configuration. -/
theorem haltStopsTheBlock : Obligations.HaltStopsTheBlock :=
  fun _ _ hlive hagenda => ⟨step_entry hlive hagenda, fun _ => step_of_halted⟩

end

section
/-! 70_reset_and_hazards.md: INIT right after reset. -/

namespace Sys2Proof.Machine

open Sys2Proof

/-- What INIT writes is what the launch already holds (10_state.md R36, 44_modulator.md R173). -/
theorem initState_launch (c : Config) (d : Launch) : initState (State.launch c d) = State.launch c d := rfl

end Sys2Proof.Machine

open Sys2Proof Sys2Proof.Machine

/-- Settles O13: the bridge is stopped at the launch, so INIT is answered, and what it writes is there already. -/
theorem initAfterResetChangesNothing : Obligations.InitAfterResetChangesNothing := by
  intro c d
  have hbridge : (State.launch c d).bridgeState = .stopped := rfl
  rw [exec_init_stopped hbridge, initState_launch]
  rfl

end
